-- ==== Sys2Proof/Word.lean ====
section
/-!
DEFINITION. Sys2Proof/Word.lean: the two words of the PDCE. Every port access, operand, coordinate, colour
channel and transmitted byte is one unsigned 8-bit byte (R8 `W`, R9, R56); a line level is 0 or 1 (R9).
-/

namespace Sys2Proof

/-- One byte: bit 0 is the least significant bit (R9). -/
abbrev Byte := BitVec 8

/-- A line level: `false` is 0 (low), `true` is 1 (high); `!v` is the spec's `~v` (R9). -/
abbrev Level := Bool

end Sys2Proof
end

