-- ==== Sys2Proof/Config.lean ====
section
/-!
DEFINITION. Sys2Proof/Config.lean: the implementation parameters of the PDCE (R8). A value the spec gives is a
constant; a parameter the spec marks OPEN is a field of `Params`, with the spec's constraint in `Params.Valid`.
The machine runs on ONE board, `Config.board`, which is opaque: nothing can be proved of it but `Params.Valid`
(log entry 1).
-/

namespace Sys2Proof

/-- The command/data-select meaning of a transmitted byte, the source's `isCommand` (R11, R13, R100). -/
inductive Kind where
  | cmd
  | dat
  deriving DecidableEq, Repr

/-- The classes of controller commands the PDCE emits (R79). -/
inductive CmdClass where
  | displayOn
  | remap
  | contrastA
  | contrastB
  | contrastC
  | masterCurrent
  | fill
  | rect
  | line
  | mode
  deriving DecidableEq, Repr

/-- A glyph primitive: offsets are integers relative to the glyph origin (R13, R160). -/
inductive Prim where
  | line (dx0 dy0 dx1 dy1 : Int)
  | dot (dx dy : Int)
  deriving DecidableEq, Repr

/-- `CELL_Y_DIR`, the sign of a glyph's vertical offsets (R8, R164). -/
inductive YDir where
  | plus
  | minus
  deriving DecidableEq, Repr

/-- The value of `CELL_Y_DIR`: +1 or -1 (R8). -/
def YDir.sign : YDir → Int
  | .plus => 1
  | .minus => -1

namespace Config

/-- `X_MAX`, 159 (R8). -/
def xMax : Byte := 0x9F
/-- `Y_MAX`, 127 (R8). -/
def yMax : Byte := 0x7F
/-- `STRIDE`, the advance from one character of a string to the next (R8, R167). -/
def stride : Nat := 6
/-- `OP_DISPLAY_ON` (R8). -/
def opDisplayOn : Byte := 0xAF
/-- `OP_REMAP` (R8). -/
def opRemap : Byte := 0xA0
/-- `REMAP_VAL`, the parameter byte of REMAP (R8). -/
def remapVal : Byte := 0xE0
/-- `OP_CONTRAST_A` (R8). -/
def opContrastA : Byte := 0x81
/-- `OP_CONTRAST_B` (R8). -/
def opContrastB : Byte := 0x82
/-- `OP_CONTRAST_C` (R8). -/
def opContrastC : Byte := 0x83
/-- `OP_MASTER_CURRENT` (R8). -/
def opMasterCurrent : Byte := 0x87
/-- `MAX_STR`, the most characters of one RENDER_STRING request (R8, D21). -/
def maxStr : Nat := 255

end Config

/-- The supported set `S` of character codes, 94 of them: 0x20..0x5F and 0x61..0x7E (R161). -/
def supported (c : Byte) : Bool :=
  (0x20 ≤ c.toNat && c.toNat ≤ 0x5F) || (0x61 ≤ c.toNat && c.toNat ≤ 0x7E)

/-- The parameters marked OPEN in R8, each under the spec's name for it. -/
structure Params where
  /-- `CS_ACTIVE`: the level of an asserted chip-select (D4). -/
  csActive : Level
  /-- `DC_CMD`: the level of DC that means command (D5). -/
  dcCmd : Level
  /-- `EN_ON`: the level of an asserted display-enable (D6). -/
  enOn : Level
  /-- `PK(cls)`: the kind of the parameter bytes of a command of class `cls` (D9). The classes DISPLAY_ON and
  MODE have no parameter byte, so their value is never read (log entry 8). -/
  pk : CmdClass → Kind
  /-- `OP_FILL` (D12). -/
  opFill : Byte
  /-- `OP_RECT` (D12). -/
  opRect : Byte
  /-- `OP_LINE` (D12). -/
  opLine : Byte
  /-- `MODE_NORMAL_ON` (D13). -/
  modeNormalOn : Byte
  /-- `MODE_NORMAL_OFF` (D13). -/
  modeNormalOff : Byte
  /-- `MODE_INVERSE` (D13). -/
  modeInverse : Byte
  /-- `CONTRAST_A` (D14). -/
  contrastA : Byte
  /-- `CONTRAST_B` (D14). -/
  contrastB : Byte
  /-- `CONTRAST_C` (D14). -/
  contrastC : Byte
  /-- `MASTER_CURRENT` (D14). -/
  masterCurrent : Byte
  /-- `T_RST`, milliseconds (D10). -/
  tRst : Nat
  /-- `T_ON`, milliseconds (D10). -/
  tOn : Nat
  /-- `T_RECT`, milliseconds (D10). -/
  tRect : Nat
  /-- `CELL_Y_DIR` (D20). -/
  cellYDir : YDir
  /-- `DEFAULT_BOX` (D20). -/
  defaultBox : List Prim
  /-- `GLYPH_ROM` on the 93 supported non-space codes, the entries R165 leaves open (D19). -/
  glyph : Byte → List Prim

/-- `H = 6 × CELL_Y_DIR` (R164). -/
def Params.boxH (p : Params) : Int := 6 * p.cellYDir.sign

/-- The four strokes of the default box, one endpoint order each: left, right, bottom, top (R164). -/
def Params.boxStrokes (p : Params) : List Prim :=
  [.line 0 0 0 p.boxH, .line 4 0 4 p.boxH, .line 0 0 4 0, .line 0 p.boxH 4 p.boxH]

/-- The same stroke drawn from its other end. -/
def Prim.flip : Prim → Prim
  | .line a b e f => .line e f a b
  | .dot a b => .dot a b

/-- An offset pair lies in the cell: `0 <= dx <= 4`, `dy` between 0 and `6 × CELL_Y_DIR` (R165). -/
def Params.inCell (p : Params) (dx dy : Int) : Prop :=
  0 ≤ dx ∧ dx ≤ 4 ∧ 0 ≤ dy * p.cellYDir.sign ∧ dy * p.cellYDir.sign ≤ 6

/-- Every offset of a primitive lies in the cell (R165). -/
def Params.primInCell (p : Params) : Prim → Prop
  | .line a b e f => p.inCell a b ∧ p.inCell e f
  | .dot a b => p.inCell a b

/-- What the spec says of the OPEN parameters, and all it says of them (R8, R164, R165). -/
structure Params.Valid (p : Params) : Prop where
  /-- The three display-mode codes are pairwise distinct (R8, R80). -/
  modes_distinct : p.modeNormalOn ≠ p.modeNormalOff ∧ p.modeNormalOn ≠ p.modeInverse ∧
    p.modeNormalOff ≠ p.modeInverse
  /-- `T_RST >= 10` (R8). -/
  tRst_ge : 10 ≤ p.tRst
  /-- `T_ON >= 200` (R8). -/
  tOn_ge : 200 ≤ p.tOn
  /-- `T_RECT >= 2` (R8). -/
  tRect_ge : 2 ≤ p.tRect
  /-- `DEFAULT_BOX` has exactly four primitives (R164). -/
  box_length : p.defaultBox.length = 4
  /-- Each of the four strokes of R164 is in `DEFAULT_BOX`, from one end or the other (so, with the length, each
  stands there once and nothing else does). -/
  box_strokes : ∀ q ∈ p.boxStrokes, q ∈ p.defaultBox ∨ q.flip ∈ p.defaultBox
  /-- Every offset of a supported non-space glyph lies in the cell (R165). -/
  glyph_in_cell : ∀ c, supported c = true → c ≠ 0x20 → ∀ q ∈ p.glyph c, p.primInCell q

namespace Params

/-- A set of parameters that meets `Params.Valid`. It is no claim about the hardware: it shows that the
constraints can be met (so that `Config.board` exists) and it is what the tests run on. -/
def sample : Params where
  csActive := false
  dcCmd := false
  enOn := true
  pk := fun c => if c = .remap then .cmd else .dat
  opFill := 0xF1
  opRect := 0xF2
  opLine := 0xF3
  modeNormalOn := 0xF4
  modeNormalOff := 0xF5
  modeInverse := 0xF6
  contrastA := 0x11
  contrastB := 0x12
  contrastC := 0x13
  masterCurrent := 0x14
  tRst := 10
  tOn := 200
  tRect := 2
  cellYDir := .plus
  defaultBox := [.line 0 0 0 6, .line 4 6 4 0, .line 0 0 4 0, .line 0 6 4 6]
  glyph := fun c => if c = 0x41 then [.line 0 0 2 6, .dot 2 3] else []

theorem sample_valid : sample.Valid where
  modes_distinct := by decide
  tRst_ge := by decide
  tOn_ge := by decide
  tRect_ge := by decide
  box_length := by decide
  box_strokes := by decide
  glyph_in_cell := by
    intro c _ _ q hq
    by_cases h : c = 0x41
    · simp only [sample, h, ↓reduceIte, List.mem_cons, List.not_mem_nil, or_false] at hq
      rcases hq with rfl | rfl <;> simp [primInCell, inCell, sample, YDir.sign]
    · simp only [sample, h, ↓reduceIte, List.not_mem_nil] at hq

end Params

/-- A board: parameters that meet the spec's constraints. -/
structure Board where
  params : Params := Params.sample
  valid : params.Valid := by exact Params.sample_valid
  deriving Inhabited

namespace Config

/-- The board the machine runs on. It is OPAQUE: no proof can see any value of it, so what is proved of the machine
holds for every choice of the OPEN parameters that meets `Params.Valid` (R8, log entry 1). -/
opaque board : Board

/-- The OPEN parameters of the machine. -/
def params : Params := board.params

theorem params_valid : params.Valid := board.valid

end Config

end Sys2Proof
end

