-- ==== Sys2Proof/Syntax.lean ====
section
/-!
DEFINITION. Sys2Proof/Syntax.lean: the instructions of the PDCE, one constructor per row of spec/opcode_table.json:
the ten host requests (R72, R73), the two rows of reserved request codes (R76), the controller commands the
sequencer emits (R79) and the byte transmission micro-operation (R100).
-/

namespace Sys2Proof

/-- A colour in the caller's order red, green, blue (R9). -/
structure Color where
  r : Byte
  g : Byte
  b : Byte
  deriving DecidableEq, Repr

/-- Black, `(0, 0, 0)` (R130). -/
def Color.black : Color := ⟨0, 0, 0⟩

/-- One constructor per row of spec/opcode_table.json. A boolean operand of a request is kept as the byte the host
wrote (R75 says when it is true). -/
inductive Instr where
  /-- INIT, frame `01` (R122). -/
  | init
  /-- SET_DISPLAY_MODE, frame `02 mode` (R124). -/
  | setDisplayMode (mode : Byte)
  /-- SET_FILL, frame `03 en` (R125). -/
  | setFill (en : Byte)
  /-- DRAW_RECT, frame `04 x0 y0 x1 y1 lr lg lb fr fg fb use` (R126). -/
  | drawRect (x0 y0 x1 y1 : Byte) (l f : Color) (use : Byte)
  /-- DRAW_LINE, frame `05 x0 y0 x1 y1 r g b` (R127). -/
  | drawLine (x0 y0 x1 y1 : Byte) (c : Color)
  /-- DRAW_DOT, frame `06 x y r g b` (R128). -/
  | drawDot (x y : Byte) (c : Color)
  /-- FILL_SCREEN, frame `07 r g b` (R129). -/
  | fillScreen (c : Color)
  /-- CLEAR_SCREEN, frame `08` (R130). -/
  | clearScreen
  /-- RENDER_CHAR, frame `09 x y ch r g b` (R166). -/
  | renderChar (x y ch : Byte) (c : Color)
  /-- RENDER_STRING, frame `0A x y r g b n t0 .. t(n-1)`, `n` the length of the text (R167). -/
  | renderString (x y : Byte) (c : Color) (text : List Byte)
  /-- The reserved request code 0x00 (R76). -/
  | reservedZero
  /-- A reserved request code 0x0B..0xFF (R76). -/
  | reservedHigh (code : Byte)
  /-- The controller command of class DISPLAY_ON (R79, R122). -/
  | cmdDisplayOn
  /-- The controller command of class REMAP (R79, R122). -/
  | cmdRemap
  /-- The controller command of class CONTRAST_A (R79, R122). -/
  | cmdContrastA
  /-- The controller command of class CONTRAST_B (R79, R122). -/
  | cmdContrastB
  /-- The controller command of class CONTRAST_C (R79, R122). -/
  | cmdContrastC
  /-- The controller command of class MASTER_CURRENT (R79, R122). -/
  | cmdMasterCurrent
  /-- The controller command of class FILL, parameter 0x00 or 0x01 (R79, R125). -/
  | cmdFill (p1 : Byte)
  /-- The controller command of class RECT (R79, R126). -/
  | cmdRect (x0 y0 x1 y1 : Byte) (l f : Color)
  /-- The controller command of class LINE (R79, R127). -/
  | cmdLine (x0 y0 x1 y1 : Byte) (c : Color)
  /-- The controller command of class MODE with code `MODE_NORMAL_ON` (R79, R124). -/
  | cmdModeNormalOn
  /-- The controller command of class MODE with code `MODE_NORMAL_OFF` (R79, R124). -/
  | cmdModeNormalOff
  /-- The controller command of class MODE with code `MODE_INVERSE` (R79, R124). -/
  | cmdModeInverse
  /-- TX, one byte transmission of kind `k`, internal to the PDCE (R100). -/
  | tx (k : Kind) (b : Byte)
  deriving DecidableEq, Repr

/-- The ten rows that a host may request (R72). -/
def Instr.isRequest : Instr → Bool
  | .init | .setDisplayMode _ | .setFill _ | .drawRect .. | .drawLine .. | .drawDot .. | .fillScreen _
  | .clearScreen | .renderChar .. | .renderString .. => true
  | .reservedZero | .reservedHigh _ => false
  | .cmdDisplayOn | .cmdRemap | .cmdContrastA | .cmdContrastB | .cmdContrastC | .cmdMasterCurrent | .cmdFill _
  | .cmdRect .. | .cmdLine .. | .cmdModeNormalOn | .cmdModeNormalOff | .cmdModeInverse | .tx .. => false

end Sys2Proof
end

