-- ==== Sys2Proof/Machine/State.lean ====
section
/-!
DEFINITION. Sys2Proof/Machine/State.lean: the architectural state of the PDCE as plain data (R20 to R35), the output
events, the host's actions, and the state after engine reset (R34). The glyph ROM is constant (R33) and stands in
Sys2Proof/Config.lean with the other parameters; STATUS is computed from the state (R32, Sys2Proof/Machine/Flags.lean).
-/

namespace Sys2Proof.Machine

/-- The twelve output lines (R20). -/
inductive Line where
  | cs
  | dc
  | rst
  | en
  | d (k : Fin 8)
  deriving DecidableEq, Repr

/-- The line's index: 0 CS, 1 DC, 2 RST, 3 EN, 4..11 D0..D7 (R20). -/
def Line.index : Line → Fin 12
  | .cs => 0
  | .dc => 1
  | .rst => 2
  | .en => 3
  | .d k => ⟨k.val + 4, by omega⟩

/-- An output event (R10). A delay is in milliseconds. -/
inductive Event where
  | cfgOut (l : Line)
  | set (l : Line) (v : Level)
  | delay (ms : Nat)
  deriving DecidableEq, Repr

/-- The two state elements of each line (R21): `cfg[l]`, and `lvl[l]`, a level or `none`, the spec's `unknown`. -/
structure Lines where
  cfg : Vector Bool 12
  lvl : Vector (Option Level) 12
  deriving DecidableEq, Repr

/-- Every line not configured, every level unknown (R34). -/
def Lines.reset : Lines where
  cfg := Vector.replicate 12 false
  lvl := Vector.replicate 12 none

/-- The two host ports, REQ (port 0) and STATUS (port 1) (R70). -/
inductive Port where
  | req
  | status
  deriving DecidableEq, Repr

/-- What happens next between the host and the PDCE (R63): the sequencer takes its step, the host writes or reads a
port, or engine reset is applied (R230). -/
inductive Act where
  | seq
  | write (port : Port) (v : Byte)
  | read (port : Port)
  | reset
  deriving DecidableEq, Repr

/-- The three fault causes of R200. Raising one is a state change (R201), not an end of the run. -/
inductive Cause where
  | badreq
  | uninit
  | busywr
  deriving DecidableEq, Repr

/-- The state of the machine: R20 to R35, then the two fields of the model's own (log entry 3). -/
structure State where
  /-- The twelve output lines (R20, R21). -/
  lines : Lines
  /-- `init_done` (R24). -/
  initDone : Bool
  /-- `busy` (R25). -/
  busy : Bool
  /-- `fault` (R26). -/
  fault : Bool
  /-- `fcause`, the code of the fault raised (R26, R200). -/
  fcause : BitVec 2
  /-- `cur`, the request being executed (R27). -/
  cur : Option Instr
  /-- `pend`, the output events of `cur` still to be emitted (R27). -/
  pend : List Event
  /-- `rx`, the bytes of a frame the host has written so far (R29). -/
  rx : List Byte
  /-- The trace: the events emitted since engine reset, oldest first (R10). -/
  trace : List Event
  /-- The model's own: the order in which host accesses and sequencer steps come, next one first; when it is empty
  the sequencer steps on (R63, log entry 3). -/
  sched : List Act
  /-- The model's own: the bytes host reads have returned, oldest first (log entry 3). -/
  hostSeen : List Byte
  deriving DecidableEq, Repr

/-- Every state element at its value after engine reset (R34); nothing scheduled and nothing read (log entry 3). -/
def State.reset : State where
  lines := Lines.reset
  initDone := false
  busy := false
  fault := false
  fcause := 0
  cur := none
  pend := []
  rx := []
  trace := []
  sched := []
  hostSeen := []

/-- Reasons to stop with a fault. No step of the PDCE raises one: its own faults are recorded in the state (R201). -/
inductive Fault where
  /-- A latch read a line whose level is unknown (R21, U5: "a model that reads one must fault, not choose"). Raised
  only by the wire view of a trace, Sys2Proof/Machine/Wire.lean, never by `step`. Safe: no level is chosen. -/
  | unknownLevel
  deriving DecidableEq, Repr

/-- Reasons to refuse an instruction. -/
inductive Refusal where
  /-- The instruction has no meaning in the model. Raised by an arm of `exec` alone, and no arm does. Safe. -/
  | notModelled (mnemonic : String)
  deriving DecidableEq, Repr

/-- What the machine's operations answer. -/
abbrev Result := Host.Outcome State Fault Refusal

end Sys2Proof.Machine
end

