-- ==== Sys2Proof/Machine/Flags.lean ====
section
/-!
DEFINITION. Sys2Proof/Machine/Flags.lean: the codes of the fault causes (R200) and the STATUS register (R32).
-/

namespace Sys2Proof.Machine

/-- `code(cause)` (R200). -/
def Cause.code : Cause → BitVec 2
  | .badreq => 1
  | .uninit => 2
  | .busywr => 3

/-- STATUS.RXPEND: `rx` is not empty (R32). -/
def State.rxPend (s : State) : Bool := !s.rx.isEmpty

/-- `zext_8` of one bit (R9). -/
def bit8 (b : Bool) : Byte := (BitVec.ofBool b).setWidth 8

/-- STATUS = zext_8( RXPEND<<5 | fcause<<3 | fault<<2 | init_done<<1 | busy ) (R32). -/
def status (s : State) : Byte :=
  bit8 s.rxPend <<< 5 ||| s.fcause.setWidth 8 <<< 3 ||| bit8 s.fault <<< 2 ||| bit8 s.initDone <<< 1 ||| bit8 s.busy

end Sys2Proof.Machine
end

