-- ==== Sys2Proof/Machine/Operands.lean ====
section
/-!
DEFINITION. Sys2Proof/Machine/Operands.lean: how operands become wire bytes: booleans, colours, offset coordinates
and the character origins of a string (R75, R131, R166, R167).
-/

namespace Sys2Proof.Machine

/-- A boolean operand is true when its byte is not 0x00 (R75). -/
def operandTrue (v : Byte) : Bool := v != 0x00

/-- `boolbyte` (R131). -/
def boolByte (v : Byte) : Byte := if operandTrue v then 0x01 else 0x00

/-- `bgr`, the wire order of a colour (R131, R54). -/
def bgr (c : Color) : List Byte := [c.b, c.g, c.r]

/-- `(x + d) mod 256` for an integer offset `d` (R166, D18). -/
def offset (x : Byte) (d : Int) : Byte := BitVec.ofInt 8 ((x.toNat : Int) + d)

/-- The origin of character `i` of a string at `x`: `(x + 6i) mod 256` (R167). -/
def charOrigin (x : Byte) (i : Nat) : Byte := BitVec.ofNat 8 (x.toNat + i * Config.stride)

end Sys2Proof.Machine
end

