-- ==== Sys2Proof/Machine/Ops.lean ====
section
/-!
DEFINITION. Sys2Proof/Machine/Ops.lean: the shared operations: applying and emitting an output event (R11, R22), byte
transmission and command framing (R100, R120), raising a fault (R201), accepting a request (R74), engine reset
(R230). There is no return from a fault (R204): engine reset is the only operation that clears one.
-/

namespace Sys2Proof.Machine

/-- `cfg[l]` (R21). -/
def Lines.isOut (L : Lines) (l : Line) : Bool := L.cfg.get l.index

/-- `lvl[l]`, `none` when unknown (R21). -/
def Lines.level (L : Lines) (l : Line) : Option Level := L.lvl.get l.index

/-- Applying an output event to the line state (R22). -/
def Lines.apply (L : Lines) : Event → Lines
  | .cfgOut l => { L with cfg := L.cfg.set l.index true }
  | .set l v => { L with lvl := L.lvl.set l.index (some v) }
  | .delay _ => L

/-- A list of events applied in order. -/
def Lines.applyAll (L : Lines) (es : List Event) : Lines := es.foldl Lines.apply L

/-- `emit(ev)`: append the event to the trace and apply it to the line state (R11). -/
def State.emit (s : State) (ev : Event) : State :=
  { s with lines := s.lines.apply ev, trace := s.trace ++ [ev] }

/-- A list of events emitted in order, with no event of anything else between them. -/
def State.emitAll (s : State) (es : List Event) : State := es.foldl State.emit s

/-- `dclvl(k)` (R100). -/
def dcLevel (p : Params) : Kind → Level
  | .cmd => p.dcCmd
  | .dat => !p.dcCmd

/-- `TX(k, b)`, the eleven events of one byte transmission (R100). -/
def txEvents (p : Params) (k : Kind) (b : Byte) : List Event :=
  [.set .dc (dcLevel p k),
   .set .cs p.csActive,
   .set (.d 0) (b.getLsbD 0),
   .set (.d 1) (b.getLsbD 1),
   .set (.d 2) (b.getLsbD 2),
   .set (.d 3) (b.getLsbD 3),
   .set (.d 4) (b.getLsbD 4),
   .set (.d 5) (b.getLsbD 5),
   .set (.d 6) (b.getLsbD 6),
   .set (.d 7) (b.getLsbD 7),
   .set .cs (!p.csActive)]

/-- `CMD(op, cls, ps)`: the op-code byte with kind `Cmd`, then each parameter byte with kind `PK(cls)` (R120). -/
def cmdEvents (p : Params) (op : Byte) (cls : CmdClass) (ps : List Byte) : List Event :=
  txEvents p .cmd op ++ ps.flatMap (txEvents p (p.pk cls))

/-- `raise Fault(cause)`: taking a fault. A part-written frame is discarded; `busy`, `cur`, `pend`, `init_done` and
the lines are unchanged (R201). -/
def State.raise (s : State) (c : Cause) : State :=
  { s with fault := true, fcause := c.code, rx := [] }

/-- Acceptance of a request whose event list is `es` (R74): `rx` is cleared, the event list is fixed, `busy` is set,
and INIT clears `init_done`. -/
def State.accept (s : State) (req : Instr) (es : List Event) : State :=
  { s with
    rx := []
    cur := some req
    pend := es
    busy := true
    initDone := if req = .init then false else s.initDone }

/-- Engine reset: every state element at the value of R34, at once and from any state (R230). The schedule and what
the host has read belong to the host and stay (log entry 3). -/
def State.engineReset (s : State) : State :=
  { State.reset with sched := s.sched, hostSeen := s.hostSeen }

end Sys2Proof.Machine
end

