-- ==== Sys2Proof/Machine/Commands.lean ====
section
/-!
DEFINITION. Sys2Proof/Machine/Commands.lean: the controller commands of R79 and the byte transmission TX of R100, as
event lists and as instructions. Run by itself, such a micro-operation emits its events in order and at once (R57,
log entry 5); inside a request the same events stand in `pend` and go out one a step (R27).
-/

namespace Sys2Proof.Machine

/-- DISPLAY_ON: op-code 0xAF, no parameter (R79). -/
def displayOnEvents (p : Params) : List Event := cmdEvents p Config.opDisplayOn .displayOn []

/-- REMAP: op-code 0xA0, parameter 0xE0 (R79). -/
def remapEvents (p : Params) : List Event := cmdEvents p Config.opRemap .remap [Config.remapVal]

/-- CONTRAST_A: op-code 0x81 (R79). -/
def contrastAEvents (p : Params) : List Event := cmdEvents p Config.opContrastA .contrastA [p.contrastA]

/-- CONTRAST_B: op-code 0x82 (R79). -/
def contrastBEvents (p : Params) : List Event := cmdEvents p Config.opContrastB .contrastB [p.contrastB]

/-- CONTRAST_C: op-code 0x83 (R79). -/
def contrastCEvents (p : Params) : List Event := cmdEvents p Config.opContrastC .contrastC [p.contrastC]

/-- MASTER_CURRENT: op-code 0x87 (R79). -/
def masterCurrentEvents (p : Params) : List Event :=
  cmdEvents p Config.opMasterCurrent .masterCurrent [p.masterCurrent]

/-- FILL: op-code `OP_FILL`, one parameter (R79). -/
def fillEvents (p : Params) (p1 : Byte) : List Event := cmdEvents p p.opFill .fill [p1]

/-- RECT: op-code `OP_RECT`, corners as given, line colour then fill colour, each blue, green, red (R79, R126). -/
def rectEvents (p : Params) (x0 y0 x1 y1 : Byte) (l f : Color) : List Event :=
  cmdEvents p p.opRect .rect ([x0, y0, x1, y1] ++ bgr l ++ bgr f)

/-- LINE: op-code `OP_LINE`, endpoints as given, colour blue, green, red (R79, R127). -/
def lineEvents (p : Params) (x0 y0 x1 y1 : Byte) (c : Color) : List Event :=
  cmdEvents p p.opLine .line ([x0, y0, x1, y1] ++ bgr c)

/-- MODE: the mode code is the command byte, no parameter (R79, R124). -/
def modeEvents (p : Params) (code : Byte) : List Event := cmdEvents p code .mode []

/-- CMD_DISPLAY_ON (R79, R122). -/
def execCmdDisplayOn (s : State) : Result := .next (s.emitAll (displayOnEvents Config.params))

/-- CMD_REMAP (R79, R122). -/
def execCmdRemap (s : State) : Result := .next (s.emitAll (remapEvents Config.params))

/-- CMD_CONTRAST_A (R79, R122). -/
def execCmdContrastA (s : State) : Result := .next (s.emitAll (contrastAEvents Config.params))

/-- CMD_CONTRAST_B (R79, R122). -/
def execCmdContrastB (s : State) : Result := .next (s.emitAll (contrastBEvents Config.params))

/-- CMD_CONTRAST_C (R79, R122). -/
def execCmdContrastC (s : State) : Result := .next (s.emitAll (contrastCEvents Config.params))

/-- CMD_MASTER_CURRENT (R79, R122). -/
def execCmdMasterCurrent (s : State) : Result := .next (s.emitAll (masterCurrentEvents Config.params))

/-- CMD_FILL (R79, R125). -/
def execCmdFill (p1 : Byte) (s : State) : Result := .next (s.emitAll (fillEvents Config.params p1))

/-- CMD_RECT (R79, R126). -/
def execCmdRect (x0 y0 x1 y1 : Byte) (l f : Color) (s : State) : Result :=
  .next (s.emitAll (rectEvents Config.params x0 y0 x1 y1 l f))

/-- CMD_LINE (R79, R127). -/
def execCmdLine (x0 y0 x1 y1 : Byte) (c : Color) (s : State) : Result :=
  .next (s.emitAll (lineEvents Config.params x0 y0 x1 y1 c))

/-- CMD_MODE_NORMAL_ON (R79, R124). -/
def execCmdModeNormalOn (s : State) : Result :=
  .next (s.emitAll (modeEvents Config.params Config.params.modeNormalOn))

/-- CMD_MODE_NORMAL_OFF (R79, R124). -/
def execCmdModeNormalOff (s : State) : Result :=
  .next (s.emitAll (modeEvents Config.params Config.params.modeNormalOff))

/-- CMD_MODE_INVERSE (R79, R124). -/
def execCmdModeInverse (s : State) : Result :=
  .next (s.emitAll (modeEvents Config.params Config.params.modeInverse))

/-- TX (R100). -/
def execTx (k : Kind) (b : Byte) (s : State) : Result := .next (s.emitAll (txEvents Config.params k b))

end Sys2Proof.Machine
end

