-- ==== Sys2Proof/Machine/Requests.lean ====
section
/-!
DEFINITION. Sys2Proof/Machine/Requests.lean: the requests of the Command Protocol (R122 to R130): the event list
`expand(req)` of each, and its meaning, the acceptance of R74 with that list. The events then go out one a step
(R27, Sys2Proof/Machine/Sequencer.lean).
-/

namespace Sys2Proof.Machine

/-- `expand(SET_DISPLAY_MODE mode)`: a recognised mode code is sent as a command; any other is a silent no-op
(R124). -/
def setDisplayModeEvents (p : Params) (mode : Byte) : List Event :=
  if mode = p.modeNormalOn ∨ mode = p.modeNormalOff ∨ mode = p.modeInverse then modeEvents p mode else []

/-- `expand(SET_FILL en)` (R125). -/
def setFillEvents (p : Params) (en : Byte) : List Event := fillEvents p (boolByte en)

/-- `expand(DRAW_RECT ..)`: the fill toggle, the rectangle, the delay (R126). -/
def drawRectEvents (p : Params) (x0 y0 x1 y1 : Byte) (l f : Color) (use : Byte) : List Event :=
  setFillEvents p use ++ rectEvents p x0 y0 x1 y1 l f ++ [.delay p.tRect]

/-- `expand(DRAW_LINE ..)`: no delay (R127). -/
def drawLineEvents (p : Params) (x0 y0 x1 y1 : Byte) (c : Color) : List Event := lineEvents p x0 y0 x1 y1 c

/-- `expand(DRAW_DOT x y c)`: a line from the point to itself (R128). -/
def drawDotEvents (p : Params) (x y : Byte) (c : Color) : List Event := drawLineEvents p x y x y c

/-- `expand(FILL_SCREEN c)`: the filled rectangle (0, 0) to (159, 127), border and interior `c` (R129). -/
def fillScreenEvents (p : Params) (c : Color) : List Event :=
  drawRectEvents p 0 0 Config.xMax Config.yMax c c 0x01

/-- `expand(CLEAR_SCREEN)` (R130). -/
def clearScreenEvents (p : Params) : List Event := fillScreenEvents p .black

/-- The twelve `CfgOut` events of INIT, in its order (R122). -/
def configureEvents : List Event :=
  [.cfgOut .cs, .cfgOut .dc, .cfgOut .rst, .cfgOut .en,
   .cfgOut (.d 0), .cfgOut (.d 1), .cfgOut (.d 2), .cfgOut (.d 3),
   .cfgOut (.d 4), .cfgOut (.d 5), .cfgOut (.d 6), .cfgOut (.d 7)]

/-- The panel reset pulse of INIT, a delay after each edge (R122). -/
def resetPulseEvents (p : Params) : List Event :=
  [.set .rst false, .delay p.tRst, .set .rst true, .delay p.tRst]

/-- `expand(INIT)`, the power-up sequence (R122). -/
def initEvents (p : Params) : List Event :=
  configureEvents ++ [.set .en (!p.enOn)] ++ resetPulseEvents p
    ++ displayOnEvents p ++ [.delay p.tOn]
    ++ remapEvents p ++ contrastAEvents p ++ contrastBEvents p ++ contrastCEvents p ++ masterCurrentEvents p
    ++ clearScreenEvents p ++ [.set .en p.enOn]

/-- INIT (R122). -/
def execInit (s : State) : Result := .next (s.accept .init (initEvents Config.params))

/-- SET_DISPLAY_MODE (R124). -/
def execSetDisplayMode (mode : Byte) (s : State) : Result :=
  .next (s.accept (.setDisplayMode mode) (setDisplayModeEvents Config.params mode))

/-- SET_FILL (R125). -/
def execSetFill (en : Byte) (s : State) : Result :=
  .next (s.accept (.setFill en) (setFillEvents Config.params en))

/-- DRAW_RECT (R126). -/
def execDrawRect (x0 y0 x1 y1 : Byte) (l f : Color) (use : Byte) (s : State) : Result :=
  .next (s.accept (.drawRect x0 y0 x1 y1 l f use) (drawRectEvents Config.params x0 y0 x1 y1 l f use))

/-- DRAW_LINE (R127). -/
def execDrawLine (x0 y0 x1 y1 : Byte) (c : Color) (s : State) : Result :=
  .next (s.accept (.drawLine x0 y0 x1 y1 c) (drawLineEvents Config.params x0 y0 x1 y1 c))

/-- DRAW_DOT (R128). -/
def execDrawDot (x y : Byte) (c : Color) (s : State) : Result :=
  .next (s.accept (.drawDot x y c) (drawDotEvents Config.params x y c))

/-- FILL_SCREEN (R129). -/
def execFillScreen (c : Color) (s : State) : Result :=
  .next (s.accept (.fillScreen c) (fillScreenEvents Config.params c))

/-- CLEAR_SCREEN (R130). -/
def execClearScreen (s : State) : Result := .next (s.accept .clearScreen (clearScreenEvents Config.params))

/-- The reserved request code 0x00 raises BADREQ (R76). -/
def execReservedZero (s : State) : Result := .next (s.raise .badreq)

/-- A reserved request code 0x0B..0xFF raises BADREQ, whichever code it is (R76). -/
def execReservedHigh (_code : Byte) (s : State) : Result := .next (s.raise .badreq)

end Sys2Proof.Machine
end

