-- ==== Sys2Proof/Machine/Glyph.lean ====
section
/-!
DEFINITION. Sys2Proof/Machine/Glyph.lean: the glyph ROM and the requests that render characters and strings
(R160 to R168).
-/

namespace Sys2Proof.Machine

/-- `RomRead(c) = GLYPH_ROM(c)`: space is empty (R162), a code outside `S` is the default box (R163), every other
supported code has the board's list (R165). -/
def romRead (p : Params) (c : Byte) : List Prim :=
  if c = 0x20 then [] else if supported c then p.glyph c else p.defaultBox

/-- `prim(x, y, q, c)`: one primitive at an origin, each coordinate modulo 256 (R166). -/
def primEvents (p : Params) (x y : Byte) (c : Color) : Prim → List Event
  | .line a b e f => drawLineEvents p (offset x a) (offset y b) (offset x e) (offset y f) c
  | .dot a b => drawDotEvents p (offset x a) (offset y b) c

/-- `expand(RENDER_CHAR x y ch c)`: the primitives of the glyph in list order (R166). -/
def renderCharEvents (p : Params) (x y ch : Byte) (c : Color) : List Event :=
  (romRead p ch).flatMap (primEvents p x y c)

/-- `expand(RENDER_STRING x y c n t)`: character `i` at `((x + 6i) mod 256, y)`, left to right (R167). -/
def renderStringEvents (p : Params) (x y : Byte) (c : Color) (text : List Byte) : List Event :=
  text.zipIdx.flatMap fun ti => renderCharEvents p (charOrigin x ti.2) y ti.1 c

/-- RENDER_CHAR (R166). -/
def execRenderChar (x y ch : Byte) (c : Color) (s : State) : Result :=
  .next (s.accept (.renderChar x y ch c) (renderCharEvents Config.params x y ch c))

/-- RENDER_STRING (R167). -/
def execRenderString (x y : Byte) (c : Color) (text : List Byte) (s : State) : Result :=
  .next (s.accept (.renderString x y c text) (renderStringEvents Config.params x y c text))

end Sys2Proof.Machine
end

