-- ==== Sys2Proof/Machine/Expand.lean ====
section
/-!
DEFINITION. Sys2Proof/Machine/Expand.lean: the event list of every instruction in one place (`expand(req)` of R74 for a
request, the emitted events for a micro-operation), and the bytes of a controller command as R79 lists them.
-/

namespace Sys2Proof.Machine

/-- The output events of an instruction: `expand(req)` of a request (R122 to R130, R166, R167), the events of a
micro-operation (R79, R100), none for a reserved code (R201: a fault emits no output event). -/
def expand (p : Params) : Instr → List Event
  | .init => initEvents p
  | .setDisplayMode mode => setDisplayModeEvents p mode
  | .setFill en => setFillEvents p en
  | .drawRect x0 y0 x1 y1 l f use => drawRectEvents p x0 y0 x1 y1 l f use
  | .drawLine x0 y0 x1 y1 c => drawLineEvents p x0 y0 x1 y1 c
  | .drawDot x y c => drawDotEvents p x y c
  | .fillScreen c => fillScreenEvents p c
  | .clearScreen => clearScreenEvents p
  | .renderChar x y ch c => renderCharEvents p x y ch c
  | .renderString x y c text => renderStringEvents p x y c text
  | .reservedZero => []
  | .reservedHigh _ => []
  | .cmdDisplayOn => displayOnEvents p
  | .cmdRemap => remapEvents p
  | .cmdContrastA => contrastAEvents p
  | .cmdContrastB => contrastBEvents p
  | .cmdContrastC => contrastCEvents p
  | .cmdMasterCurrent => masterCurrentEvents p
  | .cmdFill p1 => fillEvents p p1
  | .cmdRect x0 y0 x1 y1 l f => rectEvents p x0 y0 x1 y1 l f
  | .cmdLine x0 y0 x1 y1 c => lineEvents p x0 y0 x1 y1 c
  | .cmdModeNormalOn => modeEvents p p.modeNormalOn
  | .cmdModeNormalOff => modeEvents p p.modeNormalOff
  | .cmdModeInverse => modeEvents p p.modeInverse
  | .tx k b => txEvents p k b

end Sys2Proof.Machine
end

