-- ==== Sys2Proof/Machine/Dispatch.lean ====
section
/-! DEFINITION. Sys2Proof/Machine/Dispatch.lean: one arm per constructor of Instr, each one call of its meaning. -/

namespace Sys2Proof.Machine

def exec (i : Instr) (s : State) : Host.Outcome State Fault Refusal :=
  match i with
  -- requests of the Command Protocol (41_command_protocol.md)
  | .init => Sys2Proof.Machine.execInit s
  | .setDisplayMode mode => Sys2Proof.Machine.execSetDisplayMode mode s
  | .setFill en => Sys2Proof.Machine.execSetFill en s
  | .drawRect x0 y0 x1 y1 l f use => Sys2Proof.Machine.execDrawRect x0 y0 x1 y1 l f use s
  | .drawLine x0 y0 x1 y1 c => Sys2Proof.Machine.execDrawLine x0 y0 x1 y1 c s
  | .drawDot x y c => Sys2Proof.Machine.execDrawDot x y c s
  | .fillScreen c => Sys2Proof.Machine.execFillScreen c s
  | .clearScreen => Sys2Proof.Machine.execClearScreen s
  -- requests of the Glyph Renderer (42_glyph_renderer.md)
  | .renderChar x y ch c => Sys2Proof.Machine.execRenderChar x y ch c s
  | .renderString x y c text => Sys2Proof.Machine.execRenderString x y c text s
  -- reserved request codes (30_encoding.md R76)
  | .reservedZero => Sys2Proof.Machine.execReservedZero s
  | .reservedHigh code => Sys2Proof.Machine.execReservedHigh code s
  -- controller commands (30_encoding.md R79)
  | .cmdDisplayOn => Sys2Proof.Machine.execCmdDisplayOn s
  | .cmdRemap => Sys2Proof.Machine.execCmdRemap s
  | .cmdContrastA => Sys2Proof.Machine.execCmdContrastA s
  | .cmdContrastB => Sys2Proof.Machine.execCmdContrastB s
  | .cmdContrastC => Sys2Proof.Machine.execCmdContrastC s
  | .cmdMasterCurrent => Sys2Proof.Machine.execCmdMasterCurrent s
  | .cmdFill p1 => Sys2Proof.Machine.execCmdFill p1 s
  | .cmdRect x0 y0 x1 y1 l f => Sys2Proof.Machine.execCmdRect x0 y0 x1 y1 l f s
  | .cmdLine x0 y0 x1 y1 c => Sys2Proof.Machine.execCmdLine x0 y0 x1 y1 c s
  | .cmdModeNormalOn => Sys2Proof.Machine.execCmdModeNormalOn s
  | .cmdModeNormalOff => Sys2Proof.Machine.execCmdModeNormalOff s
  | .cmdModeInverse => Sys2Proof.Machine.execCmdModeInverse s
  -- the byte transmission micro-operation (40_bus_transport.md R100)
  | .tx k b => Sys2Proof.Machine.execTx k b s

end Sys2Proof.Machine
end

