-- ==== Sys2Proof/WellFormed.lean ====
section
/-!
DEFINITION. Sys2Proof/WellFormed.lean: which terms of `Instr` stand for an instruction of the spec. Every byte is
legal in every operand position (R77), so only three checks are left: the length of a text, the range of a
reserved code, and the parameter of the FILL command.
-/

namespace Sys2Proof

/-- The checks on an instruction's operands. -/
def Instr.wellFormed : Instr → Bool
  -- `n` is one byte: at most 255 characters (R73, D21)
  | .renderString _ _ _ text => text.length ≤ Config.maxStr
  -- the second RESERVED row is the codes 0x0B..0xFF (R72, R76)
  | .reservedHigh code => 0x0B ≤ code.toNat
  -- the parameter of FILL is 0x00 or 0x01 (R79)
  | .cmdFill p1 => p1 == 0x00 || p1 == 0x01
  | .init | .setDisplayMode _ | .setFill _ | .drawRect .. | .drawLine .. | .drawDot .. | .fillScreen _
  | .clearScreen | .renderChar .. | .reservedZero | .cmdDisplayOn | .cmdRemap | .cmdContrastA | .cmdContrastB
  | .cmdContrastC | .cmdMasterCurrent | .cmdRect .. | .cmdLine .. | .cmdModeNormalOn | .cmdModeNormalOff
  | .cmdModeInverse | .tx .. => true

end Sys2Proof
end

