-- ==== Sys2Proof/Decode.lean ====
section
/-!
DEFINITION. Sys2Proof/Decode.lean: request frames (R71 to R78). `frameLen` is R74's `flen`, `decode` reads one whole
frame and rejects every other list of bytes by name, `encode` writes the frame of an instruction, and
`decodeTableWord` reads a word numbered as spec/opcode_table.json numbers it. The PDCE decodes request frames and
nothing else: a controller op-code is emitted and never decoded (R80), TX has no encoding (R100).
-/

namespace Sys2Proof

/-- Why a list of bytes is not one whole request frame. -/
inductive DecodeError where
  /-- No byte at all. -/
  | empty
  /-- The frame needs more bytes, or its length byte is not written yet (R74). -/
  | incomplete
  /-- More bytes than the frame of this request code has. -/
  | overlong
  deriving DecidableEq, Repr

/-- The request codes 0x01..0x0A (R72). -/
def isRequestCode (v : Byte) : Bool :=
  0x01 ≤ v.toNat && v.toNat ≤ 0x0A

/-- The frame length of every request code but 0x0A, from the table of R72; a reserved code's frame is one byte. -/
def fixedLen (code : Byte) : Nat :=
  match code.toNat with
  | 0x01 => 1
  | 0x02 => 2
  | 0x03 => 2
  | 0x04 => 12
  | 0x05 => 8
  | 0x06 => 6
  | 0x07 => 4
  | 0x08 => 1
  | 0x09 => 7
  | _ => 1

/-- R74's `flen(rx)`: the frame's length once it is known; `none` is the spec's `unknown` (no byte yet, or a
RENDER_STRING whose length byte, byte 6, is not written). -/
def frameLen (rx : List Byte) : Option Nat :=
  match rx with
  | [] => none
  | code :: _ =>
    if code = 0x0A then rx[6]?.map fun n => 7 + n.toNat
    else some (fixedLen code)

/-- The operand bytes of a request code, read by the layouts of R73 (and R76 for a reserved code); `none` if they
are not exactly the operands the layout lists. -/
def decodeOperands (code : Byte) (ops : List Byte) : Option Instr :=
  match code.toNat with
  | 0x00 => match ops with
    | [] => some .reservedZero
    | _ => none
  | 0x01 => match ops with
    | [] => some .init
    | _ => none
  | 0x02 => match ops with
    | [mode] => some (.setDisplayMode mode)
    | _ => none
  | 0x03 => match ops with
    | [en] => some (.setFill en)
    | _ => none
  | 0x04 => match ops with
    | [x0, y0, x1, y1, lr, lg, lb, fr, fg, fb, use] =>
      some (.drawRect x0 y0 x1 y1 ⟨lr, lg, lb⟩ ⟨fr, fg, fb⟩ use)
    | _ => none
  | 0x05 => match ops with
    | [x0, y0, x1, y1, r, g, b] => some (.drawLine x0 y0 x1 y1 ⟨r, g, b⟩)
    | _ => none
  | 0x06 => match ops with
    | [x, y, r, g, b] => some (.drawDot x y ⟨r, g, b⟩)
    | _ => none
  | 0x07 => match ops with
    | [r, g, b] => some (.fillScreen ⟨r, g, b⟩)
    | _ => none
  | 0x08 => match ops with
    | [] => some .clearScreen
    | _ => none
  | 0x09 => match ops with
    | [x, y, ch, r, g, b] => some (.renderChar x y ch ⟨r, g, b⟩)
    | _ => none
  | 0x0A => match ops with
    | x :: y :: r :: g :: b :: n :: text =>
      if text.length = n.toNat then some (.renderString x y ⟨r, g, b⟩ text) else none
    | _ => none
  | _ => match ops with
    | [] => some (.reservedHigh code)
    | _ => none

/-- Does the frame need more bytes than it has? -/
def needsMore (rx : List Byte) : Bool :=
  match frameLen rx with
  | none => true
  | some n => rx.length < n

/-- One whole request frame (R74 `decode`, R75), or the name of the reason it is none. -/
def decode (rx : List Byte) : Except DecodeError Instr :=
  match rx with
  | [] => .error .empty
  | code :: ops =>
    match decodeOperands code ops with
    | some i => .ok i
    | none => if needsMore rx then .error .incomplete else .error .overlong

/-- The frame the host writes for an instruction, byte by byte (R72, R73; R76 for a reserved code). A controller
command and TX have no frame (R80, R100). -/
def encode : Instr → Option (List Byte)
  | .init => some [0x01]
  | .setDisplayMode mode => some [0x02, mode]
  | .setFill en => some [0x03, en]
  | .drawRect x0 y0 x1 y1 l f use => some [0x04, x0, y0, x1, y1, l.r, l.g, l.b, f.r, f.g, f.b, use]
  | .drawLine x0 y0 x1 y1 c => some [0x05, x0, y0, x1, y1, c.r, c.g, c.b]
  | .drawDot x y c => some [0x06, x, y, c.r, c.g, c.b]
  | .fillScreen c => some [0x07, c.r, c.g, c.b]
  | .clearScreen => some [0x08]
  | .renderChar x y ch c => some [0x09, x, y, ch, c.r, c.g, c.b]
  | .renderString x y c text =>
    some (0x0A :: x :: y :: c.r :: c.g :: c.b :: BitVec.ofNat 8 text.length :: text)
  | .reservedZero => some [0x00]
  | .reservedHigh code => some [code]
  | .cmdDisplayOn | .cmdRemap | .cmdContrastA | .cmdContrastB | .cmdContrastC | .cmdMasterCurrent | .cmdFill _
  | .cmdRect .. | .cmdLine .. | .cmdModeNormalOn | .cmdModeNormalOff | .cmdModeInverse | .tx .. => none

/-- Byte `k` of a word numbered as the opcode table numbers it: bit 0 is the least significant bit of byte 0. -/
def byteOfWord (w k : Nat) : Byte :=
  BitVec.ofNat 8 (w / 256 ^ k)

/-- The frame whose bits are those of `w` below bit `nbits` and 0 above: byte 0, and with it every byte the frame of
that request code has (R72; for RENDER_STRING the length byte, byte 6, says how many follow). -/
def frameOfWord (nbits w : Nat) : List Byte :=
  let v := w % 2 ^ nbits
  let code := byteOfWord v 0
  let len := if code = 0x0A then 7 + (byteOfWord v 6).toNat else fixedLen code
  (List.range len).map (byteOfWord v)

/-- The instruction the decoder reads from an instruction whose bits are `w`. -/
def decodeTableWord (nbits w : Nat) : Option Instr :=
  match decode (frameOfWord nbits w) with
  | .ok i => some i
  | .error _ => none

end Sys2Proof
end

