-- ==== Sys2Proof/Machine/Sequencer.lean ====
section
/-!
DEFINITION. Sys2Proof/Machine/Sequencer.lean: the sequencer step (R27), the host ports (R70, R74, R203) and what one
step of the machine does before it calls the meaning of an instruction. Sys2Proof/Machine/Step.lean only calls this.
-/

namespace Sys2Proof.Machine

/-- What an action comes to: a next state, or an instruction to execute in a state. -/
inductive Taken where
  | done (s : State)
  | run (i : Instr) (s : State)
  deriving DecidableEq, Repr

/-- One sequencer step (R27): emit the head of `pend`; when `pend` is empty and a request is in flight, complete it;
otherwise there is no step and the state stays (log entry 4). -/
def State.seqStep (s : State) : State :=
  match s.pend with
  | ev :: rest => { s with pend := rest }.emit ev
  | [] =>
    if s.busy then
      { s with busy := false, initDone := s.initDone || s.cur == some .init, cur := none }
    else s

/-- A host write of `v` to REQ (R74), its checks in the order of R203: ignored while faulted; BUSYWR while busy; and
at the first byte of a frame UNINIT for a request other than INIT before INIT has completed. A byte that completes a
frame runs its instruction; a reserved code is a whole frame by itself and its instruction raises BADREQ (R76). Any
other byte is stored. -/
def State.writeReq (s : State) (v : Byte) : Taken :=
  if s.fault then .done s
  else if s.busy then .done (s.raise .busywr)
  else if s.rx.isEmpty && isRequestCode v && v != 0x01 && !s.initDone then .done (s.raise .uninit)
  else match decode (s.rx ++ [v]) with
    | .ok i => .run i s
    | .error _ => .done { s with rx := s.rx ++ [v] }

/-- A host write (R70): a write to STATUS has no effect. -/
def State.hostWrite (s : State) : Port → Byte → Taken
  | .req, v => s.writeReq v
  | .status, _ => .done s

/-- The value a host read returns: 0x00 from REQ, STATUS from STATUS (R70). -/
def State.portValue (s : State) : Port → Byte
  | .req => 0x00
  | .status => status s

/-- A host read has no effect on the PDCE (R59); the model notes the value the host got. -/
def State.hostRead (s : State) (port : Port) : State :=
  { s with hostSeen := s.hostSeen ++ [s.portValue port] }

/-- What happens next: the first action of the schedule, or the sequencer's own step when none is scheduled (R63). -/
def State.takeNext (s : State) : Taken :=
  match s.sched with
  | [] => .done s.seqStep
  | .seq :: rest => .done { s with sched := rest }.seqStep
  | .write port v :: rest => { s with sched := rest }.hostWrite port v
  | .read port :: rest => .done ({ s with sched := rest }.hostRead port)
  | .reset :: rest => .done { s with sched := rest }.engineReset

/-- The state with a frame about to be completed: every byte of it but the last is in `rx`, the host's write of the
last one is what happens next, and the engine is as R74 asks for that write to be taken: no fault, no request in
flight, and INIT done for every code but INIT's. -/
def State.loadFrame (s : State) (frame : List Byte) : State :=
  match frame.getLast? with
  | none => s
  | some v =>
    { s with
      rx := frame.dropLast
      sched := .write .req v :: s.sched
      fault := false
      fcause := 0
      busy := false
      cur := none
      pend := []
      initDone := if frame.head? = some 0x01 then s.initDone else true }

end Sys2Proof.Machine
end

