-- ==== Sys2Proof/Machine/Step.lean ====
section
/-!
DEFINITION. Sys2Proof/Machine/Step.lean: one step of the machine: the next action of the schedule, or a sequencer step
when none is scheduled (R27, R63); an action that completes an instruction runs it.
-/

namespace Sys2Proof.Machine

/-- One step. -/
def step (s : State) : Host.Outcome State Fault Refusal :=
  match s.takeNext with
  | .done t => .next t
  | .run i t => exec i t

/-- The state whose next step completes and runs the instruction with the bits `w` (log entry 6). -/
def State.withFetchWord (s : State) (nbits w : Nat) : State := s.loadFrame (frameOfWord nbits w)

end Sys2Proof.Machine
end

