-- ==== Sys2Proof/Machine/Wire.lean ====
section
/-!
DEFINITION. Sys2Proof/Machine/Wire.lean: the wire-byte view of a trace (R104, R61, R235): what the controller latches,
at each chip-select edge from active to inactive, from the line levels of that moment. A latch that would read an
unknown level is a fault, not a choice (R21, U5). And the sum of a trace's delays (R241).
-/

namespace Sys2Proof.Machine

/-- A byte as the controller latches it: its kind and its value (R13). -/
structure WireByte where
  kind : Kind
  byte : Byte
  deriving DecidableEq, Repr

/-- The kind latched: `Cmd` when DC is at `DC_CMD`, else `Dat` (R104). -/
def latchKind (p : Params) (L : Lines) : Except Fault Kind :=
  match L.level .dc with
  | some v => .ok (if v = p.dcCmd then .cmd else .dat)
  | none => .error .unknownLevel

/-- Bit `k` of the byte latched, shifted to its place: `shadow[Dk] << k` (R104). -/
def latchBit (L : Lines) (k : Fin 8) : Except Fault Nat :=
  match L.level (.d k) with
  | some v => .ok (v.toNat <<< k.val)
  | none => .error .unknownLevel

/-- The byte latched: the sum of `shadow[Dj] << j` over the eight data lines (R104). -/
def latchByte (L : Lines) : Except Fault Byte := do
  let bits ← (List.finRange 8).mapM (latchBit L)
  return BitVec.ofNat 8 bits.sum

/-- Is this event a latching edge: chip-select set to inactive while it is active (R104)? -/
def isLatch (p : Params) (L : Lines) (ev : Event) : Bool :=
  ev = .set .cs (!p.csActive) && L.level .cs = some p.csActive

/-- What one event latches: nothing, or one wire byte (R104). -/
def latched (p : Params) (L : Lines) (ev : Event) : Except Fault (List WireByte) :=
  if isLatch p L ev then do
    let kind ← latchKind p L
    let byte ← latchByte L
    return [⟨kind, byte⟩]
  else
    return []

/-- `wire(trace)` from the line state before the trace (R104). -/
def wire (p : Params) (L : Lines) : List Event → Except Fault (List WireByte)
  | [] => return []
  | ev :: es => do
    let here ← latched p L ev
    let rest ← wire p (L.apply ev) es
    return here ++ rest

/-- The milliseconds an event occupies the sequencer as far as the spec says: those of a delay (R28, R240). -/
def Event.ms : Event → Nat
  | .delay d => d
  | .cfgOut _ => 0
  | .set _ _ => 0

/-- The sum of the delays of a list of events (R241). -/
def delaySum (es : List Event) : Nat := (es.map Event.ms).sum

end Sys2Proof.Machine
end

