-- ==== Sys2Proof/Safety.lean ====
section
/-!
DEFINITION. Sys2Proof/Safety.lean: the terms in which statements speak of runs: the end of a run (R242), the invariant
that every step keeps (R23 to R29, R60), sequences of instructions, and the order of events in a trace.
-/

namespace Sys2Proof.Machine

/-- A run is over: the PDCE has no step and waits for the host (R242). -/
def State.over (s : State) : Bool := !s.busy && s.pend.isEmpty && s.rx.isEmpty

/-- A good final state: the run is over and no fault was raised (R242). -/
def State.good (s : State) : Bool := s.over && !s.fault

/-- `rx` holds the beginning of a frame the host may go on writing: a request code, and a frame not whole yet. -/
def PartialFrame (rx : List Byte) : Prop :=
  ∃ code ops, rx = code :: ops ∧ isRequestCode code = true ∧ decode rx = .error .incomplete

/-- The requests `rs`, in acceptance order, are those accepted since engine reset: what has been emitted and what is
still pending are their event lists, one whole list after the other, and INIT came first. -/
structure State.History (s : State) (rs : List Instr) : Prop where
  /-- Emitted and pending events are the requests' event lists in acceptance order (R58, R60). -/
  events : s.trace ++ s.pend = rs.flatMap (expand Config.params)
  /-- Only well-formed host requests are accepted (R72). -/
  requests : ∀ r ∈ rs, r.isRequest = true ∧ r.wellFormed = true
  /-- Before the first request nothing is in flight and INIT is not done (R34). -/
  before_first : rs = [] → s.busy = false ∧ s.initDone = false
  /-- The first request accepted is INIT (R200). -/
  init_first : rs ≠ [] → rs.head? = some .init
  /-- The request in flight is the last one accepted. -/
  last_in_flight : s.busy = true → rs.getLast? = s.cur

/-- The invariant every step keeps. -/
structure State.Inv (s : State) : Prop where
  /-- `fcause` is 0 exactly while no fault was raised (R26, R200). -/
  fault_code : s.fault = false ↔ s.fcause = 0
  /-- A fault discards the part-written frame, and none begins afterwards (R201). -/
  fault_rx : s.fault = true → s.rx = []
  /-- With no request in flight nothing is pending (R27). -/
  idle : s.busy = false → s.pend = [] ∧ s.cur = none
  /-- While a request runs, no frame is part-written, what is pending is the rest of the request's event list, and
  INIT is not done exactly if the request is INIT (R24, R27, R74). -/
  running : s.busy = true → s.rx = [] ∧ ∃ i, s.cur = some i ∧ s.pend <:+ expand Config.params i ∧
    (s.initDone = true ↔ i ≠ .init)
  /-- A part-written frame is one the host may go on with, and INIT is done (R74). -/
  part_written : s.rx ≠ [] → s.initDone = true ∧ PartialFrame s.rx
  /-- The line state is what the trace makes of the reset state (R22). -/
  lines_of_trace : s.lines = Lines.reset.applyAll s.trace
  /-- The requests accepted so far account for every event. -/
  history : ∃ rs, s.History rs

/-- Every `Set(l, v)` of the list is preceded in it by `CfgOut(l)` (R23). -/
def SetsConfigured (es : List Event) : Prop :=
  ∀ before after l v, es = before ++ .set l v :: after → .cfgOut l ∈ before

/-- Is it a configuration event? -/
def Event.isCfgOut : Event → Bool
  | .cfgOut _ => true
  | .set .. | .delay _ => false

/-- Is it a delay? -/
def Event.isDelay : Event → Bool
  | .delay _ => true
  | .cfgOut _ | .set .. => false

/-- Does it set the line `l`? -/
def Event.setsLine (l : Line) : Event → Bool
  | .set k _ => k = l
  | .cfgOut _ | .delay _ => false

/-- `n` steps, stopping at the first that gives no next state. -/
def run : Nat → State → Result
  | 0, s => .next s
  | n + 1, s =>
    match step s with
    | .next t => run n t
    | .fault r => .fault r
    | .refused r => .refused r

/-- Instructions executed one after another, stopping at the first that gives no next state. -/
def execAll : List Instr → State → Result
  | [], s => .next s
  | i :: is, s =>
    match exec i s with
    | .next t => execAll is t
    | .fault r => .fault r
    | .refused r => .refused r

/-! ## Wire bytes, written from the tables and worked examples of the spec -/

/-- The transmissions of a list of wire bytes, one after another (R100, R103). -/
def sends (p : Params) (ws : List WireByte) : List Event := ws.flatMap fun w => txEvents p w.kind w.byte

/-- The wire bytes of a LINE command (R127). -/
def lineWire (p : Params) (x0 y0 x1 y1 : Byte) (c : Color) : List WireByte :=
  [⟨.cmd, p.opLine⟩, ⟨p.pk .line, x0⟩, ⟨p.pk .line, y0⟩, ⟨p.pk .line, x1⟩, ⟨p.pk .line, y1⟩,
   ⟨p.pk .line, c.b⟩, ⟨p.pk .line, c.g⟩, ⟨p.pk .line, c.r⟩]

/-- The wire bytes of a FILL command (R125). -/
def fillWire (p : Params) (p1 : Byte) : List WireByte := [⟨.cmd, p.opFill⟩, ⟨p.pk .fill, p1⟩]

/-- The wire bytes of a RECT command (R126). -/
def rectWire (p : Params) (x0 y0 x1 y1 : Byte) (l f : Color) : List WireByte :=
  [⟨.cmd, p.opRect⟩, ⟨p.pk .rect, x0⟩, ⟨p.pk .rect, y0⟩, ⟨p.pk .rect, x1⟩, ⟨p.pk .rect, y1⟩,
   ⟨p.pk .rect, l.b⟩, ⟨p.pk .rect, l.g⟩, ⟨p.pk .rect, l.r⟩,
   ⟨p.pk .rect, f.b⟩, ⟨p.pk .rect, f.g⟩, ⟨p.pk .rect, f.r⟩]

/-- The wire bytes of INIT before its clear-screen (R122). -/
def setupWire (p : Params) : List WireByte :=
  [⟨.cmd, 0xAF⟩, ⟨.cmd, 0xA0⟩, ⟨p.pk .remap, 0xE0⟩, ⟨.cmd, 0x81⟩, ⟨p.pk .contrastA, p.contrastA⟩,
   ⟨.cmd, 0x82⟩, ⟨p.pk .contrastB, p.contrastB⟩, ⟨.cmd, 0x83⟩, ⟨p.pk .contrastC, p.contrastC⟩,
   ⟨.cmd, 0x87⟩, ⟨p.pk .masterCurrent, p.masterCurrent⟩]

/-- The wire bytes of one primitive at an origin (R166). -/
def primWire (p : Params) (x y : Byte) (c : Color) : Prim → List WireByte
  | .line a b e f =>
    lineWire p (BitVec.ofInt 8 (x.toNat + a)) (BitVec.ofInt 8 (y.toNat + b))
      (BitVec.ofInt 8 (x.toNat + e)) (BitVec.ofInt 8 (y.toNat + f)) c
  | .dot a b =>
    lineWire p (BitVec.ofInt 8 (x.toNat + a)) (BitVec.ofInt 8 (y.toNat + b))
      (BitVec.ofInt 8 (x.toNat + a)) (BitVec.ofInt 8 (y.toNat + b)) c

/-- The wire bytes of one character at an origin (R166). -/
def charWire (p : Params) (x y ch : Byte) (c : Color) : List WireByte :=
  (romRead p ch).flatMap (primWire p x y c)

/-- The wire bytes of a string, each next character 6 to the right modulo 256 (R167). -/
def stringWire (p : Params) (x y : Byte) (c : Color) : List Byte → List WireByte
  | [] => []
  | t :: ts => charWire p x y t c ++ stringWire p (x + 6) y c ts

/-- The wire view of a request (R122, R124 to R130, R166, R167); no other instruction has one here. -/
def requestWire (p : Params) : Instr → List WireByte
  | .init => setupWire p ++ fillWire p 0x01 ++ rectWire p 0x00 0x00 0x9F 0x7F ⟨0, 0, 0⟩ ⟨0, 0, 0⟩
  | .setDisplayMode mode =>
    if mode = p.modeNormalOn ∨ mode = p.modeNormalOff ∨ mode = p.modeInverse then [⟨.cmd, mode⟩] else []
  | .setFill en => fillWire p (if en = 0x00 then 0x00 else 0x01)
  | .drawRect x0 y0 x1 y1 l f use =>
    fillWire p (if use = 0x00 then 0x00 else 0x01) ++ rectWire p x0 y0 x1 y1 l f
  | .drawLine x0 y0 x1 y1 c => lineWire p x0 y0 x1 y1 c
  | .drawDot x y c => lineWire p x y x y c
  | .fillScreen c => fillWire p 0x01 ++ rectWire p 0x00 0x00 0x9F 0x7F c c
  | .clearScreen => fillWire p 0x01 ++ rectWire p 0x00 0x00 0x9F 0x7F ⟨0, 0, 0⟩ ⟨0, 0, 0⟩
  | .renderChar x y ch c => charWire p x y ch c
  | .renderString x y c text => stringWire p x y c text
  | _ => []

/-- The bytes of a controller command, from the table of R79; no other instruction has any here. -/
def commandWire (p : Params) : Instr → List WireByte
  | .cmdDisplayOn => [⟨.cmd, 0xAF⟩]
  | .cmdRemap => [⟨.cmd, 0xA0⟩, ⟨p.pk .remap, 0xE0⟩]
  | .cmdContrastA => [⟨.cmd, 0x81⟩, ⟨p.pk .contrastA, p.contrastA⟩]
  | .cmdContrastB => [⟨.cmd, 0x82⟩, ⟨p.pk .contrastB, p.contrastB⟩]
  | .cmdContrastC => [⟨.cmd, 0x83⟩, ⟨p.pk .contrastC, p.contrastC⟩]
  | .cmdMasterCurrent => [⟨.cmd, 0x87⟩, ⟨p.pk .masterCurrent, p.masterCurrent⟩]
  | .cmdFill p1 => fillWire p p1
  | .cmdRect x0 y0 x1 y1 l f => rectWire p x0 y0 x1 y1 l f
  | .cmdLine x0 y0 x1 y1 c => lineWire p x0 y0 x1 y1 c
  | .cmdModeNormalOn => [⟨.cmd, p.modeNormalOn⟩]
  | .cmdModeNormalOff => [⟨.cmd, p.modeNormalOff⟩]
  | .cmdModeInverse => [⟨.cmd, p.modeInverse⟩]
  | _ => []

/-- The twelve controller commands (R79). -/
def isCommand : Instr → Bool
  | .cmdDisplayOn | .cmdRemap | .cmdContrastA | .cmdContrastB | .cmdContrastC | .cmdMasterCurrent | .cmdFill _
  | .cmdRect .. | .cmdLine .. | .cmdModeNormalOn | .cmdModeNormalOff | .cmdModeInverse => true
  | _ => false

/-! ## A request as the controller commands it is made of -/

/-- The LINE command of one primitive (R166). -/
def primCommand (x y : Byte) : Color → Prim → Instr
  | c, .line a b e f => .cmdLine (offset x a) (offset y b) (offset x e) (offset y f) c
  | c, .dot a b => .cmdLine (offset x a) (offset y b) (offset x a) (offset y b) c

/-- The LINE commands of a string (R166, R167). -/
def stringCommands (p : Params) (x y : Byte) (c : Color) : List Byte → List Instr
  | [] => []
  | t :: ts => (romRead p t).map (primCommand x y c) ++ stringCommands p (x + 6) y c ts

/-- The controller commands of a request other than INIT, in order (R79, R124 to R130, R166, R167). -/
def requestCommands (p : Params) : Instr → List Instr
  | .setDisplayMode mode =>
    if mode = p.modeNormalOn then [.cmdModeNormalOn]
    else if mode = p.modeNormalOff then [.cmdModeNormalOff]
    else if mode = p.modeInverse then [.cmdModeInverse]
    else []
  | .setFill en => [.cmdFill (boolByte en)]
  | .drawRect x0 y0 x1 y1 l f use => [.cmdFill (boolByte use), .cmdRect x0 y0 x1 y1 l f]
  | .drawLine x0 y0 x1 y1 c => [.cmdLine x0 y0 x1 y1 c]
  | .drawDot x y c => [.cmdLine x y x y c]
  | .fillScreen c => [.cmdFill 0x01, .cmdRect 0x00 0x00 0x9F 0x7F c c]
  | .clearScreen => [.cmdFill 0x01, .cmdRect 0x00 0x00 0x9F 0x7F ⟨0, 0, 0⟩ ⟨0, 0, 0⟩]
  | .renderChar x y ch c => (romRead p ch).map (primCommand x y c)
  | .renderString x y c text => stringCommands p x y c text
  | _ => []

/-- The delay a request other than INIT ends with: that of a rectangle, or none (R126, R127, R241). -/
def requestDelay (p : Params) : Instr → List Event
  | .drawRect .. | .fillScreen _ | .clearScreen => [.delay p.tRect]
  | _ => []

end Sys2Proof.Machine
end

