-- ==== Sys2Proof/Certificates/Slice0/Obligations.lean ====
section
/-!
DEFINITION. Sys2Proof/Certificates/Slice0/Obligations.lean: the statements for the provers. `Config.params` is opaque, so
a statement about the machine holds for every choice of the OPEN parameters that meets their constraints.
-/

open Sys2Proof Sys2Proof.Machine

/-! ## Reset and the host ports -/

/-- R34: after engine reset every line is unconfigured with an unknown level, and every register, the trace and
STATUS hold their reset values. -/
def Obligations.ResetStateHoldsTheResetValues : Prop :=
  (∀ l, State.reset.lines.isOut l = false ∧ State.reset.lines.level l = none) ∧
  State.reset.initDone = false ∧ State.reset.busy = false ∧ State.reset.fault = false ∧ State.reset.fcause = 0 ∧
  State.reset.cur = none ∧ State.reset.pend = [] ∧ State.reset.rx = [] ∧ State.reset.trace = [] ∧
  status State.reset = 0x00

/-- R230: engine reset, applied in any state, puts every state element at its reset value at once: the request in
flight and the part-written frame are dropped, the flags clear, and no event is emitted. (Of the model's own two
fields, `sched` and `hostSeen`, which belong to the host, it says nothing.) -/
def Obligations.EngineResetWorksFromAnyState : Prop :=
  ∀ (s : State) (rest : List Act), s.sched = .reset :: rest →
    ∃ t, step s = .next t ∧ t = {
      lines := State.reset.lines, initDone := false, busy := false, fault := false, fcause := 0, cur := none,
      pend := [], rx := [], trace := [], sched := t.sched, hostSeen := t.hostSeen }

/-- R231: engine reset starts nothing until the host writes an INIT frame. Whatever the host and the sequencer do from
the reset state, an INIT write further on in the schedule included, as long as none of the actions taken so far is a
write of the INIT code to REQ, the engine is idle, INIT is not done, nothing is in flight, pending, part-written or
emitted, and the schedule goes on with its next action; with a schedule that ends there, so it stays for good (an idle
engine's step answers the same state, log entry 4). -/
def Obligations.ResetEngineStaysIdleUntilInitIsWritten : Prop :=
  ∀ (acts rest : List Act) (n : Nat), .write .req 0x01 ∉ acts → n ≤ acts.length ∨ rest = [] →
    ∃ t, run n { State.reset with sched := acts ++ rest } = .next t ∧
      t.busy = false ∧ t.initDone = false ∧ t.cur = none ∧ t.pend = [] ∧ t.rx = [] ∧ t.trace = [] ∧
      t.sched = (acts ++ rest).drop n

/-- R32: STATUS bit by bit, in every state. -/
def Obligations.StatusHoldsItsFields : Prop :=
  ∀ s : State,
    (status s).getLsbD 0 = s.busy ∧ (status s).getLsbD 1 = s.initDone ∧ (status s).getLsbD 2 = s.fault ∧
    (status s).extractLsb' 3 2 = s.fcause ∧ ((status s).getLsbD 5 = true ↔ s.rx ≠ []) ∧
    (status s).getLsbD 6 = false ∧ (status s).getLsbD 7 = false

/-- R59, R70: a host read returns 0x00 from REQ and STATUS from STATUS and changes nothing of the PDCE; a host write to
STATUS has no effect. -/
def Obligations.HostReadsAndStatusWritesChangeNothing : Prop :=
  ∀ (s : State) (rest : List Act),
    (s.sched = .read .req :: rest →
      step s = .next { s with sched := rest, hostSeen := s.hostSeen ++ [0x00] }) ∧
    (s.sched = .read .status :: rest →
      step s = .next { s with sched := rest, hostSeen := s.hostSeen ++ [status s] }) ∧
    (∀ v, s.sched = .write .status v :: rest → step s = .next { s with sched := rest })

/-- R74, R203: a host write to REQ, its checks in order. Ignored while faulted; BUSYWR while busy; at the first byte
of a frame BADREQ for a reserved code, then UNINIT; otherwise the byte is stored, and if the frame's length is known
and reached, the request the frame decodes to is accepted. -/
def Obligations.ReqWriteFollowsTheAcceptanceRule : Prop :=
  ∀ (s : State) (v : Byte) (rest : List Act), s.sched = .write .req v :: rest →
    (s.fault = true → step s = .next { s with sched := rest }) ∧
    (s.fault = false → s.busy = true →
      step s = .next { s with sched := rest, fault := true, fcause := 3, rx := [] }) ∧
    (s.fault = false → s.busy = false →
      (s.rx = [] → ¬(1 ≤ v.toNat ∧ v.toNat ≤ 10) →
        step s = .next { s with sched := rest, fault := true, fcause := 1, rx := [] }) ∧
      (s.rx = [] → (2 ≤ v.toNat ∧ v.toNat ≤ 10) → s.initDone = false →
        step s = .next { s with sched := rest, fault := true, fcause := 2, rx := [] }) ∧
      ((s.rx = [] → v = 0x01 ∨ (2 ≤ v.toNat ∧ v.toNat ≤ 10) ∧ s.initDone = true) →
        (frameLen (s.rx ++ [v]) = some (s.rx ++ [v]).length →
          ∃ i, decode (s.rx ++ [v]) = .ok i ∧ i.isRequest = true ∧
            step s = .next { s with
              sched := rest
              rx := []
              cur := some i
              pend := expand Config.params i
              busy := true
              initDone := if i = .init then false else s.initDone }) ∧
        (frameLen (s.rx ++ [v]) ≠ some (s.rx ++ [v]).length →
          step s = .next { s with sched := rest, rx := s.rx ++ [v] })))

/-- The host's write of the byte that makes `rx` decode to an instruction, taken when R74 lets it be taken, is `exec` of
that instruction: nothing is added around it but the schedule moving on. -/
def Obligations.StepRunsTheDecodedInstruction : Prop :=
  ∀ (s : State) (v : Byte) (rest : List Act) (i : Instr),
    s.sched = .write .req v :: rest → s.fault = false → s.busy = false → decode (s.rx ++ [v]) = .ok i →
    (s.rx = [] → i.isRequest = true → i = .init ∨ s.initDone = true) →
    step s = exec i { s with sched := rest }

/-- A frame written byte by byte to an engine that may take it runs its instruction: the bytes before the last are
stored, the last one executes. For every request and every reserved code. -/
def Obligations.WritingAFrameRunsItsInstruction : Prop :=
  ∀ (s : State) (i : Instr) (w : List Byte) (rest : List Act),
    i.wellFormed = true → encode i = some w → s.fault = false → s.busy = false → s.rx = [] →
    (i.isRequest = true → i = .init ∨ s.initDone = true) →
    s.sched = w.map (.write .req) ++ rest →
    run w.length s = exec i { s with sched := rest }

/-! ## Decoding -/

/-- Words written out from the frame layouts of R72, R73 and R76, one for every request and reserved row. -/
def Obligations.WrittenOutFramesDecode : Prop :=
  decode [0x01] = .ok .init ∧
  decode [0x02, 0x7E] = .ok (.setDisplayMode 0x7E) ∧
  decode [0x03, 0x80] = .ok (.setFill 0x80) ∧
  decode [0x04, 10, 20, 30, 40, 1, 2, 3, 4, 5, 6, 1] = .ok (.drawRect 10 20 30 40 ⟨1, 2, 3⟩ ⟨4, 5, 6⟩ 1) ∧
  decode [0x05, 0, 0, 159, 127, 255, 128, 0] = .ok (.drawLine 0 0 159 127 ⟨255, 128, 0⟩) ∧
  decode [0x06, 5, 6, 7, 8, 9] = .ok (.drawDot 5 6 ⟨7, 8, 9⟩) ∧
  decode [0x07, 1, 2, 3] = .ok (.fillScreen ⟨1, 2, 3⟩) ∧
  decode [0x08] = .ok .clearScreen ∧
  decode [0x09, 10, 20, 0x60, 1, 2, 3] = .ok (.renderChar 10 20 0x60 ⟨1, 2, 3⟩) ∧
  decode [0x0A, 0, 10, 255, 255, 255, 2, 0x60, 0x20] = .ok (.renderString 0 10 ⟨255, 255, 255⟩ [0x60, 0x20]) ∧
  decode [0x0B] = .ok (.reservedHigh 0x0B) ∧ decode [0x00] = .ok .reservedZero ∧
  decode [0x05, 0, 0] = .error .incomplete

/-- Decoding the frame of a well-formed instruction gives the instruction back, every operand at every value. -/
def Obligations.DecodeOfEncodeIsTheInstruction : Prop :=
  ∀ (i : Instr) (w : List Byte), i.wellFormed = true → encode i = some w → decode w = .ok i

/-- Whatever bytes decode to an instruction are its frame, and the instruction is well formed and one the host can
ask for or a reserved code: no frame decodes to a controller command or to TX (R71, R80). -/
def Obligations.EncodeOfDecodeIsTheFrame : Prop :=
  ∀ (i : Instr) (w : List Byte), decode w = .ok i →
    encode i = some w ∧ i.wellFormed = true ∧
      (i.isRequest = true ∨ i = .reservedZero ∨ ∃ code, i = .reservedHigh code)

/-- A list of bytes decodes exactly when R74's frame length is known and reached. -/
def Obligations.DecodingSucceedsExactlyOnWholeFrames : Prop :=
  ∀ w : List Byte, (∃ i, decode w = .ok i) ↔ frameLen w = some w.length

/-! ## Output events and the bus -/

/-- R22: what an event does to each line's state elements, and that it does nothing else. -/
def Obligations.EventAppliesToItsLineAlone : Prop :=
  ∀ (L : Lines) (l k : Line) (v : Level) (d : Nat),
    ((L.apply (.cfgOut l)).isOut k = if k = l then true else L.isOut k) ∧
    ((L.apply (.cfgOut l)).level k = L.level k) ∧
    ((L.apply (.set l v)).isOut k = L.isOut k) ∧
    ((L.apply (.set l v)).level k = if k = l then some v else L.level k) ∧
    L.apply (.delay d) = L

/-- R100, R102: TX emits its eleven events: DC, chip-select active, the data lines D0 to D7 with bits 0 to 7,
chip-select inactive. It leaves those lines at the levels of R102, every other line as before. That `exec` of TX by
itself emits all eleven at once and leaves all other state as before is the model's choice (log entry 5): inside a
request they go out one a step. -/
def Obligations.TxEmitsElevenEventsAndSetsTheBus : Prop :=
  ∀ (k : Kind) (b : Byte) (s : State),
    ∃ t, exec (.tx k b) s = .next t ∧ t = { s with lines := t.lines, trace := t.trace } ∧
      t.trace = s.trace ++
        [.set .dc (if k = .cmd then Config.params.dcCmd else !Config.params.dcCmd), .set .cs Config.params.csActive,
         .set (.d 0) (b.getLsbD 0), .set (.d 1) (b.getLsbD 1), .set (.d 2) (b.getLsbD 2), .set (.d 3) (b.getLsbD 3),
         .set (.d 4) (b.getLsbD 4), .set (.d 5) (b.getLsbD 5), .set (.d 6) (b.getLsbD 6), .set (.d 7) (b.getLsbD 7),
         .set .cs (!Config.params.csActive)] ∧
      t.lines.level .cs = some (!Config.params.csActive) ∧
      t.lines.level .dc = some (if k = .cmd then Config.params.dcCmd else !Config.params.dcCmd) ∧
      (∀ j : Fin 8, t.lines.level (.d j) = some (b.getLsbD j.val)) ∧
      t.lines.level .rst = s.lines.level .rst ∧ t.lines.level .en = s.lines.level .en ∧
      (∀ l, t.lines.isOut l = s.lines.isOut l)

/-- R104: from any line state, the controller latches from one transmission exactly its kind and byte, and from a list
of transmissions their bytes in order, whatever the parameters. -/
def Obligations.WireViewOfTransmissionsIsTheirBytes : Prop :=
  ∀ (p : Params) (L : Lines) (ws : List WireByte), wire p L (sends p ws) = .ok ws

/-- R79, R120: each of the twelve controller commands runs to a next state: it transmits its op-code as a command and its
parameters with the kind of its class, in the table's order, 11 events a byte, and changes nothing but the lines and
the trace; the controller latches exactly those bytes. That a command run by itself emits all its events at once and
changes the lines and the trace alone is the model's choice (log entry 5): inside a request they go out one a step. -/
def Obligations.CommandsTransmitTheirTableRow : Prop :=
  ∀ (i : Instr) (s : State) (L : Lines), isCommand i = true →
    ∃ t, exec i s = .next t ∧ t = { s with lines := t.lines, trace := t.trace } ∧
      t.trace = s.trace ++ sends Config.params (commandWire Config.params i) ∧
      t.lines = s.lines.applyAll (sends Config.params (commandWire Config.params i)) ∧
      wire Config.params L (sends Config.params (commandWire Config.params i)) =
        .ok (commandWire Config.params i) ∧
      (sends Config.params (commandWire Config.params i)).length = 11 * (commandWire Config.params i).length

/-- R101, R102: a command leaves every configuration bit and the levels of RST and EN as they were, chip-select
inactive, and DC and the data lines as its last byte has them. That `exec` runs a command by itself is the model's
choice (log entry 5). -/
def Obligations.CommandsLeaveTheBusAtTheirLastByte : Prop :=
  ∀ (i : Instr) (s : State), isCommand i = true →
    ∃ t w, exec i s = .next t ∧ (commandWire Config.params i).getLast? = some w ∧
      (∀ l, t.lines.isOut l = s.lines.isOut l) ∧
      t.lines.level .rst = s.lines.level .rst ∧ t.lines.level .en = s.lines.level .en ∧
      t.lines.level .cs = some (!Config.params.csActive) ∧
      t.lines.level .dc = some (dcLevel Config.params w.kind) ∧
      ∀ j : Fin 8, t.lines.level (.d j) = some (w.byte.getLsbD j.val)

/-! ## The requests: acceptance with the event list of the rule, wire view and size

`exec` of a request is its acceptance by R74, whatever the state; the port's checks on `fault`, `busy` and `init_done`
come before it (log entry 9; ReqWriteFollowsTheAcceptanceRule states them). -/

/-- R122: what accepting INIT, a repeated INIT too, does: `init_done` goes to 0, and the events are: the twelve
configurations, display-enable deasserted, the reset pulse with a delay after each edge, display-on and its delay,
REMAP, the contrasts, the master current, the clear to black with its delay, and display-enable asserted. That `exec`
is the acceptance in any state is the model's choice (log entry 9): the REQ port ignores the write of an INIT while
faulted and raises BUSYWR while busy (R74, R203), before `exec`. -/
def Obligations.InitIsAcceptedWithThePowerUpSequence : Prop :=
  ∀ s : State, exec .init s = .next { s with
    rx := []
    cur := some .init
    busy := true
    initDone := false
    pend :=
      [.cfgOut .cs, .cfgOut .dc, .cfgOut .rst, .cfgOut .en,
       .cfgOut (.d 0), .cfgOut (.d 1), .cfgOut (.d 2), .cfgOut (.d 3),
       .cfgOut (.d 4), .cfgOut (.d 5), .cfgOut (.d 6), .cfgOut (.d 7),
       .set .en (!Config.params.enOn),
       .set .rst false, .delay Config.params.tRst, .set .rst true, .delay Config.params.tRst]
      ++ sends Config.params [⟨.cmd, 0xAF⟩] ++ [.delay Config.params.tOn]
      ++ sends Config.params
          [⟨.cmd, 0xA0⟩, ⟨Config.params.pk .remap, 0xE0⟩,
           ⟨.cmd, 0x81⟩, ⟨Config.params.pk .contrastA, Config.params.contrastA⟩,
           ⟨.cmd, 0x82⟩, ⟨Config.params.pk .contrastB, Config.params.contrastB⟩,
           ⟨.cmd, 0x83⟩, ⟨Config.params.pk .contrastC, Config.params.contrastC⟩,
           ⟨.cmd, 0x87⟩, ⟨Config.params.pk .masterCurrent, Config.params.masterCurrent⟩,
           ⟨.cmd, Config.params.opFill⟩, ⟨Config.params.pk .fill, 0x01⟩,
           ⟨.cmd, Config.params.opRect⟩, ⟨Config.params.pk .rect, 0x00⟩, ⟨Config.params.pk .rect, 0x00⟩,
           ⟨Config.params.pk .rect, 0x9F⟩, ⟨Config.params.pk .rect, 0x7F⟩,
           ⟨Config.params.pk .rect, 0x00⟩, ⟨Config.params.pk .rect, 0x00⟩, ⟨Config.params.pk .rect, 0x00⟩,
           ⟨Config.params.pk .rect, 0x00⟩, ⟨Config.params.pk .rect, 0x00⟩, ⟨Config.params.pk .rect, 0x00⟩]
      ++ [.delay Config.params.tRect, .set .en Config.params.enOn] }

/-- R123: INIT is 284 events, of them 12 configurations, 2 sets of EN, 2 of RST, the four delays `T_RST` twice, `T_ON` and
`T_RECT`, and besides these the 264 events of the 24 transmissions of the rule, 8 op-codes of kind command and 16
parameters of the kind of their class, which are what the controller latches from any line state. The delays sum to
`2 T_RST + T_ON + T_RECT`, at least 222; no transmission comes before the reset pulse ends (the first 17 events latch
nothing); and the last event asserts display-enable. -/
def Obligations.InitHasTheSizesOfItsRule : Prop :=
  ∀ L : Lines,
    let es := expand Config.params .init
    let ws : List WireByte :=
      [⟨.cmd, 0xAF⟩, ⟨.cmd, 0xA0⟩, ⟨Config.params.pk .remap, 0xE0⟩,
       ⟨.cmd, 0x81⟩, ⟨Config.params.pk .contrastA, Config.params.contrastA⟩,
       ⟨.cmd, 0x82⟩, ⟨Config.params.pk .contrastB, Config.params.contrastB⟩,
       ⟨.cmd, 0x83⟩, ⟨Config.params.pk .contrastC, Config.params.contrastC⟩,
       ⟨.cmd, 0x87⟩, ⟨Config.params.pk .masterCurrent, Config.params.masterCurrent⟩,
       ⟨.cmd, Config.params.opFill⟩, ⟨Config.params.pk .fill, 0x01⟩,
       ⟨.cmd, Config.params.opRect⟩, ⟨Config.params.pk .rect, 0x00⟩, ⟨Config.params.pk .rect, 0x00⟩,
       ⟨Config.params.pk .rect, 0x9F⟩, ⟨Config.params.pk .rect, 0x7F⟩,
       ⟨Config.params.pk .rect, 0x00⟩, ⟨Config.params.pk .rect, 0x00⟩, ⟨Config.params.pk .rect, 0x00⟩,
       ⟨Config.params.pk .rect, 0x00⟩, ⟨Config.params.pk .rect, 0x00⟩, ⟨Config.params.pk .rect, 0x00⟩]
    es.length = 284 ∧ es.countP Event.isCfgOut = 12 ∧ es.countP (Event.setsLine .en) = 2 ∧
    es.countP (Event.setsLine .rst) = 2 ∧ es.countP Event.isDelay = 4 ∧
    es.filter Event.isDelay = [.delay Config.params.tRst, .delay Config.params.tRst, .delay Config.params.tOn,
      .delay Config.params.tRect] ∧
    es.filter (fun ev => !ev.isCfgOut && !ev.isDelay && !ev.setsLine .en && !ev.setsLine .rst) =
      sends Config.params ws ∧
    ws.length = 24 ∧ (sends Config.params ws).length = 264 ∧ wire Config.params L es = .ok ws ∧
    delaySum es = 2 * Config.params.tRst + Config.params.tOn + Config.params.tRect ∧ 222 ≤ delaySum es ∧
    wire Config.params L (es.take 17) = .ok [] ∧ es.getLast? = some (.set .en Config.params.enOn)

/-- R124: a recognised mode code is accepted with the one command byte as its events; any other value is accepted too,
with no event at all, and raises no fault. -/
def Obligations.SetDisplayModeSendsARecognisedCodeOnly : Prop :=
  ∀ (mode : Byte) (s : State) (L : Lines),
    let ws : List WireByte :=
      if mode = Config.params.modeNormalOn ∨ mode = Config.params.modeNormalOff ∨ mode = Config.params.modeInverse
      then [⟨.cmd, mode⟩] else []
    exec (.setDisplayMode mode) s = .next { s with
      rx := [], cur := some (.setDisplayMode mode), busy := true, pend := sends Config.params ws } ∧
    wire Config.params L (sends Config.params ws) = .ok ws

/-- R125: SET_FILL is accepted with the FILL command and 0x00 for a zero operand, 0x01 for any other, and no delay. -/
def Obligations.SetFillSendsZeroOrOne : Prop :=
  ∀ (en : Byte) (s : State) (L : Lines),
    let ws : List WireByte :=
      [⟨.cmd, Config.params.opFill⟩, ⟨Config.params.pk .fill, if en = 0x00 then 0x00 else 0x01⟩]
    exec (.setFill en) s = .next { s with
      rx := [], cur := some (.setFill en), busy := true, pend := sends Config.params ws } ∧
    wire Config.params L (sends Config.params ws) = .ok ws

/-- R126: DRAW_RECT is accepted with the fill toggle, the RECT command with the corners as given and each colour blue,
green, red, line before fill, and then the delay, filled or not: 144 events. -/
def Obligations.DrawRectSendsFillThenRectThenWaits : Prop :=
  ∀ (x0 y0 x1 y1 : Byte) (l f : Color) (use : Byte) (s : State) (L : Lines),
    let ws : List WireByte :=
      [⟨.cmd, Config.params.opFill⟩, ⟨Config.params.pk .fill, if use = 0x00 then 0x00 else 0x01⟩,
       ⟨.cmd, Config.params.opRect⟩,
       ⟨Config.params.pk .rect, x0⟩, ⟨Config.params.pk .rect, y0⟩,
       ⟨Config.params.pk .rect, x1⟩, ⟨Config.params.pk .rect, y1⟩,
       ⟨Config.params.pk .rect, l.b⟩, ⟨Config.params.pk .rect, l.g⟩, ⟨Config.params.pk .rect, l.r⟩,
       ⟨Config.params.pk .rect, f.b⟩, ⟨Config.params.pk .rect, f.g⟩, ⟨Config.params.pk .rect, f.r⟩]
    let es := sends Config.params ws ++ [.delay Config.params.tRect]
    exec (.drawRect x0 y0 x1 y1 l f use) s = .next { s with
      rx := [], cur := some (.drawRect x0 y0 x1 y1 l f use), busy := true, pend := es } ∧
    wire Config.params L es = .ok ws ∧ es.length = 144

/-- R127: DRAW_LINE is accepted with the LINE command, endpoints as given, colour blue, green, red, and no delay: 88
events. -/
def Obligations.DrawLineSendsOneLineCommand : Prop :=
  ∀ (x0 y0 x1 y1 : Byte) (c : Color) (s : State) (L : Lines),
    let ws : List WireByte :=
      [⟨.cmd, Config.params.opLine⟩,
       ⟨Config.params.pk .line, x0⟩, ⟨Config.params.pk .line, y0⟩,
       ⟨Config.params.pk .line, x1⟩, ⟨Config.params.pk .line, y1⟩,
       ⟨Config.params.pk .line, c.b⟩, ⟨Config.params.pk .line, c.g⟩, ⟨Config.params.pk .line, c.r⟩]
    exec (.drawLine x0 y0 x1 y1 c) s = .next { s with
      rx := [], cur := some (.drawLine x0 y0 x1 y1 c), busy := true, pend := sends Config.params ws } ∧
    wire Config.params L (sends Config.params ws) = .ok ws ∧ (sends Config.params ws).length = 88

/-- R128: DRAW_DOT is accepted with the very events DRAW_LINE is accepted with for the line from the point to itself,
and the controller latches the op-code, the point twice and the colour blue, green, red. -/
def Obligations.DrawDotIsTheLineFromThePointToItself : Prop :=
  ∀ (x y : Byte) (c : Color) (s : State) (L : Lines),
    ∃ t u, exec (.drawDot x y c) s = .next t ∧ exec (.drawLine x y x y c) s = .next u ∧
      t = { u with cur := some (.drawDot x y c) } ∧
      wire Config.params L t.pend = .ok
        [⟨.cmd, Config.params.opLine⟩,
         ⟨Config.params.pk .line, x⟩, ⟨Config.params.pk .line, y⟩,
         ⟨Config.params.pk .line, x⟩, ⟨Config.params.pk .line, y⟩,
         ⟨Config.params.pk .line, c.b⟩, ⟨Config.params.pk .line, c.g⟩, ⟨Config.params.pk .line, c.r⟩]

/-- R129, R130: FILL_SCREEN is accepted with the very events of the filled DRAW_RECT (0, 0) to (159, 127) with border
and interior of the one colour, and CLEAR_SCREEN with those of FILL_SCREEN black. -/
def Obligations.FillAndClearScreenAreTheWholeRectangle : Prop :=
  ∀ (c : Color) (s : State),
    ∃ t u v w, exec (.fillScreen c) s = .next t ∧ exec (.drawRect 0 0 159 127 c c 0x01) s = .next u ∧
      t = { u with cur := some (.fillScreen c) } ∧
      exec .clearScreen s = .next v ∧ exec (.fillScreen ⟨0, 0, 0⟩) s = .next w ∧
      v = { w with cur := some .clearScreen }

/-- R166: RENDER_CHAR is accepted with one LINE command for each primitive of the glyph, in list order, each coordinate
the origin plus the offset modulo 256, in the request's one colour, a dot as a line with equal endpoints; 88 events a
primitive, no delay. -/
def Obligations.RenderCharSendsOneLineForEachPrimitive : Prop :=
  ∀ (x y ch : Byte) (c : Color) (s : State) (L : Lines),
    ∃ t, exec (.renderChar x y ch c) s = .next t ∧
      t = { s with rx := [], cur := some (.renderChar x y ch c), busy := true, pend := t.pend } ∧
      t.pend = sends Config.params ((romRead Config.params ch).flatMap (primWire Config.params x y c)) ∧
      wire Config.params L t.pend = .ok ((romRead Config.params ch).flatMap (primWire Config.params x y c)) ∧
      t.pend.length = 88 * (romRead Config.params ch).length ∧ delaySum t.pend = 0

/-- R167: RENDER_STRING is accepted with the events of its characters in order: an empty text has none, and a text with a
first character `ch` has those of RENDER_CHAR of `ch` at the origin and then those of the rest of the text at an origin
6 further right, modulo 256, the same y. -/
def Obligations.RenderStringRendersItsCharactersSixApart : Prop :=
  ∀ (x y : Byte) (c : Color) (s : State),
    (∃ t, exec (.renderString x y c []) s = .next t ∧
      t = { s with rx := [], cur := some (.renderString x y c []), busy := true, pend := [] }) ∧
    ∀ (ch : Byte) (text : List Byte),
      ∃ t u v, exec (.renderString x y c (ch :: text)) s = .next t ∧ exec (.renderChar x y ch c) s = .next u ∧
        exec (.renderString (x + 6) y c text) s = .next v ∧
        t = { s with
          rx := [], cur := some (.renderString x y c (ch :: text)), busy := true, pend := u.pend ++ v.pend }

/-- R162, R163, R165: the whole ROM. The entry of space is empty; every other code of the 94 supported ones (0x21 to 0x5F
and 0x61 to 0x7E) has the glyph that is the parameter's, and on the board every primitive of it lies in the cell; every
code outside the supported ones has the default box. -/
def Obligations.RomHoldsNothingForSpaceAndTheBoxForTheRest : Prop :=
  (∀ p : Params, romRead p 0x20 = [] ∧
    (∀ ch : Byte, (0x21 ≤ ch.toNat ∧ ch.toNat ≤ 0x5F ∨ 0x61 ≤ ch.toNat ∧ ch.toNat ≤ 0x7E) →
      romRead p ch = p.glyph ch) ∧
    ∀ ch : Byte, (ch.toNat ≤ 0x1F ∨ ch = 0x60 ∨ 0x7F ≤ ch.toNat) → romRead p ch = p.defaultBox) ∧
  ∀ ch : Byte, (0x21 ≤ ch.toNat ∧ ch.toNat ≤ 0x5F ∨ 0x61 ≤ ch.toNat ∧ ch.toNat ≤ 0x7E) →
    ∀ q ∈ romRead Config.params ch, Config.params.primInCell q

/-- R163, R164: on the board, a code outside the supported set renders as exactly four lines, which are the left, right,
bottom and top strokes of the cell, each there in one direction or the other, coordinates modulo 256. -/
def Obligations.UnsupportedCodeRendersTheFourStrokeBox : Prop :=
  ∀ (x y ch : Byte) (c : Color) (s : State), (ch.toNat ≤ 0x1F ∨ ch = 0x60 ∨ 0x7F ≤ ch.toNat) →
    ∃ (t : State) (qs : List (Int × Int × Int × Int)), exec (.renderChar x y ch c) s = .next t ∧ qs.length = 4 ∧
      t.pend = qs.flatMap (fun q => sends Config.params (lineWire Config.params
        (x + BitVec.ofInt 8 q.1) (y + BitVec.ofInt 8 q.2.1) (x + BitVec.ofInt 8 q.2.2.1)
        (y + BitVec.ofInt 8 q.2.2.2) c)) ∧
      ∀ r : Int × Int × Int × Int,
        r ∈ [(0, 0, 0, Config.params.boxH), (4, 0, 4, Config.params.boxH), (0, 0, 4, 0),
             (0, Config.params.boxH, 4, Config.params.boxH)] →
        r ∈ qs ∨ (r.2.2.1, r.2.2.2, r.1, r.2.1) ∈ qs

/-- R76, R201: a reserved code raises BADREQ: `fault` and `fcause` 1 are set, the part-written frame is discarded, and
everything else is unchanged; so does the step in which the host writes one as the first byte of a frame. -/
def Obligations.ReservedCodesRaiseBadreq : Prop :=
  (∀ s : State, exec .reservedZero s = .next { s with fault := true, fcause := 1, rx := [] }) ∧
  (∀ (code : Byte) (s : State),
    exec (.reservedHigh code) s = .next { s with fault := true, fcause := 1, rx := [] }) ∧
  ∀ (s : State) (v : Byte) (rest : List Act), (v = 0x00 ∨ 0x0B ≤ v.toNat) →
    s.sched = .write .req v :: rest → s.fault = false → s.busy = false → s.rx = [] →
    step s = .next { s with sched := rest, fault := true, fcause := 1 }

/-- R241: the delays of each request: those of INIT, `T_RECT` for the three rectangle requests, none for any other; and
the board's delays meet the bounds. -/
def Obligations.DelaysOfEachRequest : Prop :=
  delaySum (expand Config.params .init) = 2 * Config.params.tRst + Config.params.tOn + Config.params.tRect ∧
  222 ≤ delaySum (expand Config.params .init) ∧ 2 ≤ Config.params.tRect ∧
  (∀ (x0 y0 x1 y1 : Byte) (l f : Color) (use : Byte),
    delaySum (expand Config.params (.drawRect x0 y0 x1 y1 l f use)) = Config.params.tRect) ∧
  (∀ c, delaySum (expand Config.params (.fillScreen c)) = Config.params.tRect) ∧
  delaySum (expand Config.params .clearScreen) = Config.params.tRect ∧
  ∀ i : Instr, i.isRequest = true → i ≠ .init → requestDelay Config.params i = [] →
    delaySum (expand Config.params i) = 0

/-! ## Runs -/

/-- R27, R63: one sequencer step, whether the schedule asks for it before later actions or is empty: the head of `pend`
is emitted; when nothing is pending and a request is in flight it completes, INIT setting `init_done`; an idle engine
stays as it is, which is the model's choice (log entry 4). The schedule moves on by that one action. -/
def Obligations.SequencerStepEmitsOneEventOrCompletes : Prop :=
  ∀ s : State, s.sched = [] ∨ s.sched.head? = some .seq →
    (∀ ev rest, s.pend = ev :: rest →
      step s = .next { s with
        sched := s.sched.tail, pend := rest, lines := s.lines.apply ev, trace := s.trace ++ [ev] }) ∧
    (s.pend = [] → s.busy = true →
      step s = .next { s with
        sched := s.sched.tail
        busy := false
        cur := none
        initDone := if s.cur = some .init then true else s.initDone }) ∧
    (s.pend = [] → s.busy = false → step s = .next { s with sched := s.sched.tail })

/-- R27: a request in flight, left alone, runs to completion: every pending event is emitted in order, and one step
later `busy` is 0 and, for INIT, `init_done` is 1. -/
def Obligations.RequestInFlightRunsToCompletion : Prop :=
  ∀ s : State, s.sched = [] → s.busy = true →
    run (s.pend.length + 1) s = .next { s with
      lines := s.lines.applyAll s.pend
      trace := s.trace ++ s.pend
      pend := []
      busy := false
      cur := none
      initDone := if s.cur = some .init then true else s.initDone }

/-- R202: a REQ write while a request runs raises BUSYWR and does not abort the request, which still runs to its end. -/
def Obligations.BusywrDoesNotAbortTheRequest : Prop :=
  ∀ (s : State) (v : Byte), s.sched = [.write .req v] → s.busy = true → s.fault = false →
    run (s.pend.length + 2) s = .next { s with
      sched := []
      fault := true
      fcause := 3
      rx := []
      lines := s.lines.applyAll s.pend
      trace := s.trace ++ s.pend
      pend := []
      busy := false
      cur := none
      initDone := if s.cur = some .init then true else s.initDone }

/-- A request other than INIT, accepted and run to completion, leaves the lines and the trace exactly as its controller
commands executed one after another do, followed by its delay if it has one. That a command executed by itself emits its
events at once is the model's choice (log entry 5). -/
def Obligations.CompletedRequestIsItsCommandsInOrder : Prop :=
  ∀ (i : Instr) (s : State), i.isRequest = true → i ≠ .init → s.sched = [] →
    ∃ t u v, exec i s = .next t ∧ run (t.pend.length + 1) t = .next u ∧
      execAll (requestCommands Config.params i) s = .next v ∧
      u.lines = v.lines ∧ u.trace = v.trace ++ requestDelay Config.params i ∧ u.busy = false ∧
      u.initDone = s.initDone

/-- R201, R203, R204, R26: once a fault is raised, nothing but engine reset clears it or changes its code, no new request
is ever accepted, no byte is stored, and all that is still emitted is what was pending. -/
def Obligations.FaultLocksTheEngineUntilReset : Prop :=
  ∀ (s : State) (n : Nat), s.fault = true → .reset ∉ s.sched →
    ∃ t, run n s = .next t ∧ t.fault = true ∧ t.fcause = s.fcause ∧ t.rx = s.rx ∧
      (t.cur = s.cur ∨ t.cur = none) ∧ (s.busy = false → t.busy = false) ∧
      t.trace ++ t.pend = s.trace ++ s.pend

/-- R200: a fault is raised only by a host write to REQ, for one of the three causes, with that cause's code, and the
step emits nothing. -/
def Obligations.FaultsComeFromReqWritesOnly : Prop :=
  ∀ s t : State, step s = .next t → s.fault = false → t.fault = true →
    ∃ v rest, s.sched = .write .req v :: rest ∧ t = { s with sched := rest, fault := true, fcause := t.fcause, rx := [] } ∧
      ((s.busy = true ∧ t.fcause = 3) ∨
       (s.busy = false ∧ s.rx = [] ∧ ¬(1 ≤ v.toNat ∧ v.toNat ≤ 10) ∧ t.fcause = 1) ∨
       (s.busy = false ∧ s.rx = [] ∧ 2 ≤ v.toNat ∧ v.toNat ≤ 10 ∧ s.initDone = false ∧ t.fcause = 2))

/-- R206: no transmission, no accepted request and no fault entry stops the machine: every step has a next state. For
the idle engine with nothing scheduled, for which R27 says that there is no step, the next state is the same state, which
is the model's choice (log entry 4). -/
def Obligations.EveryStepHasANextState : Prop :=
  ∀ s : State, (∃ t, step s = .next t) ∧
    (s.sched = [] → s.pend = [] → s.busy = false → step s = .next s)

/-! ## Rules of the whole machine -/

/-- R24: only the completion of INIT sets `init_done`, and apart from engine reset only the acceptance of an INIT
clears it. -/
def Obligations.InitDoneFollowsInitAlone : Prop :=
  ∀ s t : State, step s = .next t → s.sched.head? ≠ some .reset →
    (s.initDone = false → t.initDone = true →
      s.busy = true ∧ s.pend = [] ∧ s.cur = some .init ∧ t.busy = false) ∧
    (s.initDone = true → t.initDone = false →
      s.busy = false ∧ s.fault = false ∧ t.busy = true ∧ t.cur = some .init)

/-- R25: `busy` rises only when a request is accepted, and apart from engine reset falls only in a sequencer step, the one
after the request's last event. -/
def Obligations.BusySpansARequest : Prop :=
  ∀ s t : State, step s = .next t → s.sched.head? ≠ some .reset →
    (s.busy = false → t.busy = true →
      ∃ i, i.isRequest = true ∧ t.cur = some i ∧ t.pend = expand Config.params i ∧ t.rx = [] ∧ s.fault = false) ∧
    (s.busy = true → t.busy = false →
      (s.sched = [] ∨ s.sched.head? = some .seq) ∧ s.pend = [] ∧ t.cur = none)

/-- R27, R60: apart from engine reset, a step emits nothing, or exactly the head of `pend`, which it applies to the
lines: nothing else changes the lines or the trace, and nothing already emitted changes. -/
def Obligations.StepsEmitOnlyTheHeadOfPend : Prop :=
  ∀ s t : State, step s = .next t → s.sched.head? ≠ some .reset →
    (t.lines = s.lines ∧ t.trace = s.trace) ∨
    ∃ ev, s.pend = ev :: t.pend ∧ t.lines = s.lines.apply ev ∧ t.trace = s.trace ++ [ev]

/-- R58, R64: while a request is in flight no host action but engine reset can touch it: a host access leaves the
request and its pending events as they are. -/
def Obligations.HostCannotTouchTheRequestInFlight : Prop :=
  ∀ (s t : State) (a : Act) (rest : List Act), s.sched = a :: rest → a ≠ .seq → a ≠ .reset → s.busy = true →
    step s = .next t →
    t.busy = true ∧ t.cur = s.cur ∧ t.pend = s.pend ∧ t.initDone = s.initDone ∧ t.lines = s.lines ∧ t.trace = s.trace

/-- R103, that nothing is read back: no event reads a line: for every event and line, the event leaves that line's configuration bit (its level) as
it is, from every line state, or makes it 1 (makes it one and the same level) from every line state. And no step reads a
line: from two states that differ in their lines only, a step answers, and the answers differ in their lines only, which
are in both what the step emitted makes of the lines before: the same lines, the lines with the head of `pend` applied,
or after engine reset the reset lines. -/
def Obligations.NoStepReadsALine : Prop :=
  (∀ (ev : Event) (k : Line),
    ((∀ L : Lines, (L.apply ev).isOut k = L.isOut k) ∨ ∀ L : Lines, (L.apply ev).isOut k = true) ∧
    ((∀ L : Lines, (L.apply ev).level k = L.level k) ∨ ∃ v, ∀ L : Lines, (L.apply ev).level k = some v)) ∧
  ∀ (s : State) (L : Lines), ∃ t : State, step s = .next t ∧
    ((t.lines = s.lines ∧ t.trace = s.trace ∧ step { s with lines := L } = .next { t with lines := L }) ∨
     (∃ ev, s.pend = ev :: t.pend ∧ t.lines = s.lines.apply ev ∧ t.trace = s.trace ++ [ev] ∧
       step { s with lines := L } = .next { t with lines := L.apply ev }) ∨
     (s.sched.head? = some .reset ∧ t.lines = Lines.reset ∧ step { s with lines := L } = .next t))

/-- The reset state meets the invariant, whatever is scheduled. -/
def Obligations.ResetMeetsTheInvariant : Prop :=
  ∀ acts : List Act, { State.reset with sched := acts }.Inv

/-- Every step keeps the invariant: the requests accepted account for every event emitted or pending, the lines are what
the trace makes of the reset state, INIT came first, and `rx`, `fault`, `busy` and `init_done` fit together. -/
def Obligations.StepKeepsTheInvariant : Prop :=
  ∀ s t : State, s.Inv → step s = .next t → t.Inv

/-- R23: under the invariant, every line set in the trace was configured as an output before. -/
def Obligations.EverySetIsPrecededByItsConfiguration : Prop :=
  ∀ s : State, s.Inv → SetsConfigured s.trace

/-- R104, R58, R60: under the invariant, an idle engine's trace, from the reset lines, has been latched by the controller
as the wire views of the requests accepted since engine reset, whole and in acceptance order. -/
def Obligations.IdleTraceIsTheRequestsWireViewsInOrder : Prop :=
  ∀ s : State, s.Inv → s.busy = false →
    ∃ rs, s.History rs ∧
      wire Config.params Lines.reset s.trace = .ok (rs.flatMap (requestWire Config.params))

/-- R104: under the invariant, no latch of the trace ever reads an unknown level, in the middle of a request either. -/
def Obligations.NoLatchReadsAnUnknownLevel : Prop :=
  ∀ s : State, s.Inv → ∃ ws, wire Config.params Lines.reset s.trace = .ok ws

/-- R133, R234: under the invariant, once INIT is done all twelve lines are outputs, display-enable is asserted and the
panel reset is high, also while a draw request runs; and when the engine is idle chip-select is inactive. -/
def Obligations.PanelIsLiveOnceInitIsDone : Prop :=
  ∀ s : State, s.Inv → s.initDone = true →
    (∀ l, s.lines.isOut l = true) ∧ s.lines.level .en = some Config.params.enOn ∧ s.lines.level .rst = some true ∧
    (s.busy = false → s.lines.level .cs = some (!Config.params.csActive))

/-- R29: under the invariant `rx` holds fewer than 262 bytes, it begins with a request code other than INIT's, and it is
empty while a request runs. -/
def Obligations.FrameBufferStaysWithinItsBound : Prop :=
  ∀ s : State, s.Inv → s.rx.length < 262 ∧ (s.busy = true → s.rx = []) ∧
    ∀ code ops, s.rx = code :: ops → 2 ≤ code.toNat ∧ code.toNat ≤ 10

/-- R242: an engine whose run is over has no step: with nothing scheduled its state stays; and, under the invariant, a
run is over exactly when no request is in flight and no frame is part-written. -/
def Obligations.AFinishedRunHasNoStep : Prop :=
  ∀ s : State, (s.over = true → s.sched = [] → step s = .next s) ∧
    (s.Inv → (s.over = true ↔ s.busy = false ∧ s.rx = []))

/-- The interface of the host's checks: for every word, the decoder reads an instruction, and the step after
`withFetchWord` is `exec` of it with the engine idle, unfaulted and the frame's other bytes in `rx` (log entry 6). -/
def Obligations.FetchWordRunsWhatTheTableWordDecodesTo : Prop :=
  ∀ (s : State) (nbits w : Nat),
    ∃ i t, decodeTableWord nbits w = some i ∧ step (s.withFetchWord nbits w) = exec i t ∧
      t = { s with
        rx := (frameOfWord nbits w).dropLast
        fault := false
        fcause := 0
        busy := false
        cur := none
        pend := []
        initDone := t.initDone }
end

