-- ==== Sys2Proof/Laws/State.lean ====
section
/-!
SUPPORT. Sys2Proof/Laws/State.lean: what each update of the state does to each field, and how the line state reads
after an event. Later proofs cite these and unfold no record update.
-/

namespace Sys2Proof.Machine

/-! ## Lines -/

@[simp] theorem Line.index_inj {l l' : Line} : l.index = l'.index ↔ l = l' := by
  refine ⟨fun h => ?_, congrArg Line.index⟩
  have h : l.index.val = l'.index.val := congrArg Fin.val h
  cases l <;> cases l' <;> first
    | rfl
    | (simp only [Line.index, Fin.val_zero, Fin.val_one] at h; omega)
    | (simp only [Line.index] at h; rw [Line.d.injEq]; omega)

/-- Configuring a line configures it and no other (R22). -/
@[simp] theorem Lines.isOut_cfgOut (L : Lines) (l l' : Line) :
    (L.apply (.cfgOut l)).isOut l' = (decide (l' = l) || L.isOut l') := by
  by_cases h : l' = l
  · subst h; simp [Lines.apply, Lines.isOut, Vector.get_eq_getElem]
  · have hi : l.index.val ≠ l'.index.val := fun e => h (Line.index_inj.1 (Fin.ext e.symm))
    simp [Lines.apply, Lines.isOut, Vector.get_eq_getElem, Vector.getElem_set_ne, hi, h]

@[simp] theorem Lines.isOut_set (L : Lines) (l l' : Line) (v : Level) :
    (L.apply (.set l v)).isOut l' = L.isOut l' := rfl

@[simp] theorem Lines.level_cfgOut (L : Lines) (l l' : Line) :
    (L.apply (.cfgOut l)).level l' = L.level l' := rfl

/-- Setting a line gives it the level and leaves every other line's level (R22). -/
@[simp] theorem Lines.level_set (L : Lines) (l l' : Line) (v : Level) :
    (L.apply (.set l v)).level l' = if l' = l then some v else L.level l' := by
  by_cases h : l' = l
  · subst h; simp [Lines.apply, Lines.level, Vector.get_eq_getElem]
  · have hi : l.index.val ≠ l'.index.val := fun e => h (Line.index_inj.1 (Fin.ext e.symm))
    simp [Lines.apply, Lines.level, Vector.get_eq_getElem, Vector.getElem_set_ne, hi, h]

@[simp] theorem Lines.apply_delay (L : Lines) (d : Nat) : L.apply (.delay d) = L := rfl

@[simp] theorem Lines.isOut_reset (l : Line) : Lines.reset.isOut l = false := by
  simp [Lines.isOut, Lines.reset, Vector.get_eq_getElem]

@[simp] theorem Lines.level_reset (l : Line) : Lines.reset.level l = none := by
  simp [Lines.level, Lines.reset, Vector.get_eq_getElem]

/-- Every index is some line's. -/
theorem Line.index_surj (k : Fin 12) : ∃ l : Line, l.index = k := by
  rcases k with ⟨k, hk⟩
  by_cases h : k < 4
  · interval_cases k
    exacts [⟨.cs, rfl⟩, ⟨.dc, rfl⟩, ⟨.rst, rfl⟩, ⟨.en, rfl⟩]
  · exact ⟨.d ⟨k - 4, by omega⟩, by simp [Line.index]; omega⟩

/-- Two line states that read the same on every line are the same. -/
theorem Lines.ext_lines {L M : Lines} (hc : ∀ l, L.isOut l = M.isOut l) (hl : ∀ l, L.level l = M.level l) :
    L = M := by
  have key : ∀ {α : Type} (a b : Vector α 12), (∀ l : Line, a.get l.index = b.get l.index) → a = b := by
    intro α a b h
    ext i hi
    obtain ⟨l, e⟩ := Line.index_surj ⟨i, hi⟩
    have := h l
    rw [e] at this
    simpa [Vector.get_eq_getElem] using this
  cases L; cases M
  simp only [Lines.isOut, Lines.level] at hc hl
  simp only [Lines.mk.injEq]
  exact ⟨key _ _ hc, key _ _ hl⟩

@[simp] theorem Lines.applyAll_nil (L : Lines) : L.applyAll [] = L := rfl

@[simp] theorem Lines.applyAll_cons (L : Lines) (ev : Event) (es : List Event) :
    L.applyAll (ev :: es) = (L.apply ev).applyAll es := rfl

@[simp] theorem Lines.applyAll_append (L : Lines) (es fs : List Event) :
    L.applyAll (es ++ fs) = (L.applyAll es).applyAll fs := by
  simp [Lines.applyAll, List.foldl_append]

/-! ## One lemma per field per update -/

@[simp] theorem State.emit_lines (s : State) (ev : Event) : (s.emit ev).lines = s.lines.apply ev := rfl
@[simp] theorem State.emit_initDone (s : State) (ev : Event) : (s.emit ev).initDone = s.initDone := rfl
@[simp] theorem State.emit_busy (s : State) (ev : Event) : (s.emit ev).busy = s.busy := rfl
@[simp] theorem State.emit_fault (s : State) (ev : Event) : (s.emit ev).fault = s.fault := rfl
@[simp] theorem State.emit_fcause (s : State) (ev : Event) : (s.emit ev).fcause = s.fcause := rfl
@[simp] theorem State.emit_cur (s : State) (ev : Event) : (s.emit ev).cur = s.cur := rfl
@[simp] theorem State.emit_pend (s : State) (ev : Event) : (s.emit ev).pend = s.pend := rfl
@[simp] theorem State.emit_rx (s : State) (ev : Event) : (s.emit ev).rx = s.rx := rfl
@[simp] theorem State.emit_trace (s : State) (ev : Event) : (s.emit ev).trace = s.trace ++ [ev] := rfl
@[simp] theorem State.emit_sched (s : State) (ev : Event) : (s.emit ev).sched = s.sched := rfl
@[simp] theorem State.emit_hostSeen (s : State) (ev : Event) : (s.emit ev).hostSeen = s.hostSeen := rfl

@[simp] theorem State.raise_lines (s : State) (c : Cause) : (s.raise c).lines = s.lines := rfl
@[simp] theorem State.raise_initDone (s : State) (c : Cause) : (s.raise c).initDone = s.initDone := rfl
@[simp] theorem State.raise_busy (s : State) (c : Cause) : (s.raise c).busy = s.busy := rfl
@[simp] theorem State.raise_fault (s : State) (c : Cause) : (s.raise c).fault = true := rfl
@[simp] theorem State.raise_fcause (s : State) (c : Cause) : (s.raise c).fcause = c.code := rfl
@[simp] theorem State.raise_cur (s : State) (c : Cause) : (s.raise c).cur = s.cur := rfl
@[simp] theorem State.raise_pend (s : State) (c : Cause) : (s.raise c).pend = s.pend := rfl
@[simp] theorem State.raise_rx (s : State) (c : Cause) : (s.raise c).rx = [] := rfl
@[simp] theorem State.raise_trace (s : State) (c : Cause) : (s.raise c).trace = s.trace := rfl
@[simp] theorem State.raise_sched (s : State) (c : Cause) : (s.raise c).sched = s.sched := rfl
@[simp] theorem State.raise_hostSeen (s : State) (c : Cause) : (s.raise c).hostSeen = s.hostSeen := rfl

@[simp] theorem State.accept_lines (s : State) (i : Instr) (es : List Event) : (s.accept i es).lines = s.lines := rfl
@[simp] theorem State.accept_initDone (s : State) (i : Instr) (es : List Event) : (s.accept i es).initDone = if i = .init then false else s.initDone := rfl
@[simp] theorem State.accept_busy (s : State) (i : Instr) (es : List Event) : (s.accept i es).busy = true := rfl
@[simp] theorem State.accept_fault (s : State) (i : Instr) (es : List Event) : (s.accept i es).fault = s.fault := rfl
@[simp] theorem State.accept_fcause (s : State) (i : Instr) (es : List Event) : (s.accept i es).fcause = s.fcause := rfl
@[simp] theorem State.accept_cur (s : State) (i : Instr) (es : List Event) : (s.accept i es).cur = some i := rfl
@[simp] theorem State.accept_pend (s : State) (i : Instr) (es : List Event) : (s.accept i es).pend = es := rfl
@[simp] theorem State.accept_rx (s : State) (i : Instr) (es : List Event) : (s.accept i es).rx = [] := rfl
@[simp] theorem State.accept_trace (s : State) (i : Instr) (es : List Event) : (s.accept i es).trace = s.trace := rfl
@[simp] theorem State.accept_sched (s : State) (i : Instr) (es : List Event) : (s.accept i es).sched = s.sched := rfl
@[simp] theorem State.accept_hostSeen (s : State) (i : Instr) (es : List Event) : (s.accept i es).hostSeen = s.hostSeen := rfl

@[simp] theorem State.engineReset_lines (s : State) : (s.engineReset).lines = Lines.reset := rfl
@[simp] theorem State.engineReset_initDone (s : State) : (s.engineReset).initDone = false := rfl
@[simp] theorem State.engineReset_busy (s : State) : (s.engineReset).busy = false := rfl
@[simp] theorem State.engineReset_fault (s : State) : (s.engineReset).fault = false := rfl
@[simp] theorem State.engineReset_fcause (s : State) : (s.engineReset).fcause = 0 := rfl
@[simp] theorem State.engineReset_cur (s : State) : (s.engineReset).cur = none := rfl
@[simp] theorem State.engineReset_pend (s : State) : (s.engineReset).pend = [] := rfl
@[simp] theorem State.engineReset_rx (s : State) : (s.engineReset).rx = [] := rfl
@[simp] theorem State.engineReset_trace (s : State) : (s.engineReset).trace = [] := rfl
@[simp] theorem State.engineReset_sched (s : State) : (s.engineReset).sched = s.sched := rfl
@[simp] theorem State.engineReset_hostSeen (s : State) : (s.engineReset).hostSeen = s.hostSeen := rfl

@[simp] theorem State.hostRead_lines (s : State) (q : Port) : (s.hostRead q).lines = s.lines := rfl
@[simp] theorem State.hostRead_initDone (s : State) (q : Port) : (s.hostRead q).initDone = s.initDone := rfl
@[simp] theorem State.hostRead_busy (s : State) (q : Port) : (s.hostRead q).busy = s.busy := rfl
@[simp] theorem State.hostRead_fault (s : State) (q : Port) : (s.hostRead q).fault = s.fault := rfl
@[simp] theorem State.hostRead_fcause (s : State) (q : Port) : (s.hostRead q).fcause = s.fcause := rfl
@[simp] theorem State.hostRead_cur (s : State) (q : Port) : (s.hostRead q).cur = s.cur := rfl
@[simp] theorem State.hostRead_pend (s : State) (q : Port) : (s.hostRead q).pend = s.pend := rfl
@[simp] theorem State.hostRead_rx (s : State) (q : Port) : (s.hostRead q).rx = s.rx := rfl
@[simp] theorem State.hostRead_trace (s : State) (q : Port) : (s.hostRead q).trace = s.trace := rfl
@[simp] theorem State.hostRead_sched (s : State) (q : Port) : (s.hostRead q).sched = s.sched := rfl
@[simp] theorem State.hostRead_hostSeen (s : State) (q : Port) : (s.hostRead q).hostSeen = s.hostSeen ++ [s.portValue q] := rfl

end Sys2Proof.Machine
end

