-- ==== Sys2Proof/Laws/Ops.lean ====
section
/-!
SUPPORT. Sys2Proof/Laws/Ops.lean: what the shared operations over event lists do: emitting a list, the shape of a
transmission and of a command, and the wire view of a list cut in two.
-/

namespace Sys2Proof.Machine

/-! ## Emitting -/

/-- Emitting a list appends it to the trace, applies it to the lines, and does nothing else (R11, R22). -/
theorem State.emitAll_eq (s : State) (es : List Event) :
    s.emitAll es = { s with lines := s.lines.applyAll es, trace := s.trace ++ es } := by
  induction es generalizing s with
  | nil => simp [State.emitAll]
  | cons ev es ih =>
    have : s.emitAll (ev :: es) = (s.emit ev).emitAll es := rfl
    rw [this, ih]
    simp [State.emit]

theorem State.emitAll_append (s : State) (es fs : List Event) :
    s.emitAll (es ++ fs) = (s.emitAll es).emitAll fs := by
  simp [State.emitAll_eq]

/-! ## Transmissions and commands -/

@[simp] theorem txEvents_length (p : Params) (k : Kind) (b : Byte) : (txEvents p k b).length = 11 := rfl

/-- A list of transmissions of one kind. -/
theorem txList_length (p : Params) (k : Kind) (bs : List Byte) :
    (bs.flatMap (txEvents p k)).length = 11 * bs.length := by
  induction bs with
  | nil => rfl
  | cons b bs ih => simp [ih]; omega

/-- An event of a transmission drives DC, CS or a data line. -/
theorem mem_txEvents {p : Params} {k : Kind} {b : Byte} {ev : Event} (h : ev ∈ txEvents p k b) :
    ∃ l v, ev = .set l v ∧ l ≠ .rst ∧ l ≠ .en := by
  simp only [txEvents, List.mem_cons, List.not_mem_nil, or_false] at h
  rcases h with rfl | rfl | rfl | rfl | rfl | rfl | rfl | rfl | rfl | rfl | rfl <;> exact ⟨_, _, rfl, by decide, by decide⟩

theorem mem_cmdEvents {p : Params} {op : Byte} {cls : CmdClass} {ps : List Byte} {ev : Event}
    (h : ev ∈ cmdEvents p op cls ps) : ∃ l v, ev = .set l v ∧ l ≠ .rst ∧ l ≠ .en := by
  rcases List.mem_append.1 h with h | h
  · exact mem_txEvents h
  · obtain ⟨_, _, h⟩ := List.mem_flatMap.1 h
    exact mem_txEvents h

/-! ## Delays -/

@[simp] theorem delaySum_nil : delaySum [] = 0 := rfl

@[simp] theorem delaySum_append (es fs : List Event) : delaySum (es ++ fs) = delaySum es + delaySum fs := by
  simp [delaySum]

/-- A list of line sets has no delay. -/
theorem delaySum_of_sets {es : List Event} (h : ∀ ev ∈ es, ∃ l v, ev = .set l v ∧ l ≠ .rst ∧ l ≠ .en) :
    delaySum es = 0 := by
  simp only [delaySum, List.sum_eq_zero_iff, List.mem_map]
  rintro n ⟨ev, hev, rfl⟩
  obtain ⟨l, v, rfl, -⟩ := h ev hev
  rfl

/-! ## The wire view -/

@[simp] theorem wire_nil (p : Params) (L : Lines) : wire p L [] = .ok [] := rfl

theorem wire_cons (p : Params) (L : Lines) (ev : Event) (es : List Event) :
    wire p L (ev :: es) = (do
      let here ← latched p L ev
      let rest ← wire p (L.apply ev) es
      return here ++ rest) := rfl

/-- An event that is no latching edge puts nothing on the wire (R104). -/
theorem wire_cons_of_no_latch {p : Params} {L : Lines} {ev : Event} (es : List Event)
    (h : isLatch p L ev = false) : wire p L (ev :: es) = wire p (L.apply ev) es := by
  rw [wire_cons, latched, h]
  cases wire p (L.apply ev) es <;> rfl

/-- Only a set of chip-select can be a latching edge (R104). -/
theorem isLatch_of_ne {p : Params} {L : Lines} {ev : Event} (h : ev ≠ .set .cs (!p.csActive)) :
    isLatch p L ev = false := by
  simp [isLatch, h]

/-- The wire view of a list cut in two: if the first part has the wire view `ws`, the whole has `ws` and then the view
of the second part from where the first left the lines (R104). -/
theorem wire_append {p : Params} {L : Lines} {es : List Event} {ws : List WireByte} (fs : List Event)
    (h : wire p L es = .ok ws) :
    wire p L (es ++ fs) = (wire p (L.applyAll es) fs).map (ws ++ ·) := by
  induction es generalizing L ws with
  | nil =>
    cases (Except.ok.inj (h : Except.ok [] = Except.ok ws))
    simp only [List.nil_append, Lines.applyAll_nil]
    cases wire p L fs <;> rfl
  | cons ev es ih =>
    rw [List.cons_append, wire_cons]
    rw [wire_cons] at h
    cases hl : latched p L ev with
    | error e => simp [hl, bind, Except.bind] at h
    | ok here =>
      cases hw : wire p (L.apply ev) es with
      | error e => simp [hl, hw, bind, Except.bind] at h
      | ok rest =>
        have e : here ++ rest = ws := by simpa [hl, hw, bind, Except.bind, pure, Except.pure] using h
        subst e
        rw [ih hw]
        simp only [bind, Except.bind, Lines.applyAll_cons]
        cases wire p ((L.apply ev).applyAll es) fs with
        | error e => rfl
        | ok more => simp [Except.map, pure, Except.pure]

/-- If the whole has a wire view, so has every beginning of it. -/
theorem wire_left_ok {p : Params} {L : Lines} {es fs : List Event} {ws : List WireByte}
    (h : wire p L (es ++ fs) = .ok ws) : ∃ vs, wire p L es = .ok vs := by
  induction es generalizing L ws with
  | nil => exact ⟨[], rfl⟩
  | cons ev es ih =>
    rw [List.cons_append, wire_cons] at h
    cases hl : latched p L ev with
    | error e => simp [hl, bind, Except.bind] at h
    | ok here =>
      cases hw : wire p (L.apply ev) (es ++ fs) with
      | error e => simp [hl, hw, bind, Except.bind] at h
      | ok rest =>
        obtain ⟨vs, hv⟩ := ih hw
        exact ⟨here ++ vs, by rw [wire_cons, hl, hv]; rfl⟩

end Sys2Proof.Machine
end

