-- ==== Sys2Proof/Laws/Exec.lean ====
section
/-!
SUPPORT. Sys2Proof/Laws/Exec.lean: what `exec` does, once for the three kinds of rows: a request is accepted with its
event list, a reserved code raises BADREQ, a micro-operation emits its events.
-/

namespace Sys2Proof

/-- The two rows of reserved codes (R76). -/
def Instr.isReserved : Instr → Bool
  | .reservedZero | .reservedHigh _ => true
  | _ => false

end Sys2Proof

namespace Sys2Proof.Machine

theorem exec_request {i : Instr} (h : i.isRequest = true) (s : State) :
    exec i s = .next (s.accept i (expand Config.params i)) := by
  cases i <;> first | (cases h; done) | rfl

theorem exec_reserved {i : Instr} (h : i.isReserved = true) (s : State) :
    exec i s = .next (s.raise .badreq) := by
  cases i <;> first | (cases h; done) | rfl

theorem exec_micro {i : Instr} (h : i.isRequest = false) (h' : i.isReserved = false) (s : State) :
    exec i s = .next (s.emitAll (expand Config.params i)) := by
  cases i <;> first | (cases h; done) | (cases h'; done) | rfl

/-- No instruction stops the machine (R206). -/
theorem exec_next (i : Instr) (s : State) : ∃ t, exec i s = .next t := by
  cases hr : i.isRequest with
  | true => exact ⟨_, exec_request hr s⟩
  | false =>
    cases hz : i.isReserved with
    | true => exact ⟨_, exec_reserved hz s⟩
    | false => exact ⟨_, exec_micro hr hz s⟩

/-- The decoder reads requests and reserved codes, nothing else (R71, R80). -/
theorem decodeOperands_kind {code : Byte} {ops : List Byte} {i : Instr} (h : decodeOperands code ops = some i) :
    i.isRequest = true ∨ i.isReserved = true := by
  simp only [decodeOperands] at h
  repeat' split at h
  all_goals first
    | (cases h; done)
    | (cases h; exact .inl rfl)
    | (cases h; exact .inr rfl)

theorem decode_ok {code : Byte} {ops : List Byte} {i : Instr} :
    decode (code :: ops) = .ok i ↔ decodeOperands code ops = some i := by
  simp only [decode]
  cases decodeOperands code ops with
  | some j => simp
  | none => simp only [reduceCtorEq, iff_false]; split <;> simp

/-- A frame is incomplete when its bytes are no whole operand list and R74's length is unknown or not reached. -/
theorem decode_incomplete {code : Byte} {ops : List Byte} :
    decode (code :: ops) = .error .incomplete ↔ decodeOperands code ops = none ∧ needsMore (code :: ops) = true := by
  simp only [decode]
  cases decodeOperands code ops with
  | some j => simp
  | none => cases needsMore (code :: ops) <;> simp

theorem decode_error {code : Byte} {ops : List Byte} {e : DecodeError} (h : decode (code :: ops) = .error e) :
    decodeOperands code ops = none := by
  simp only [decode] at h
  cases hd : decodeOperands code ops with
  | none => rfl
  | some j => simp [hd] at h

theorem decode_kind {w : List Byte} {i : Instr} (h : decode w = .ok i) :
    i.isRequest = true ∨ i.isReserved = true := by
  cases w with
  | nil => cases h
  | cons code ops => exact decodeOperands_kind (decode_ok.1 h)

end Sys2Proof.Machine
end

