-- ==== Sys2Proof/Laws/PerInstr.lean ====
section
/-!
SUPPORT. Sys2Proof/Laws/PerInstr.lean: statements made of every instruction as syntax, one lemma per constructor.
`FrameLength`: the frame the encoder writes for a well-formed instruction is exactly as long as R74's `flen` says of it
(R72, R78); a controller command and TX have no frame (R80, R100).
-/

namespace Sys2Proof.Laws.FrameLength

/-- The frame of a well-formed instruction has the length that `frameLen` reads from it. -/
def Statement (i : Instr) : Prop :=
  i.wellFormed = true → ∀ w, encode i = some w → frameLen w = some w.length

/-- A frame with a fixed length. -/
theorem of_fixed {i : Instr} {v : List Byte} (he : encode i = some v) (hl : frameLen v = some v.length) :
    Statement i := by
  intro _ w hw
  cases he.symm.trans hw
  exact hl

/-- An instruction without a frame. -/
theorem of_none {i : Instr} (he : encode i = none) : Statement i := by
  intro _ w hw
  cases he.symm.trans hw

theorem init : Statement .init := of_fixed rfl rfl

theorem setDisplayMode (mode : Byte) : Statement (.setDisplayMode mode) := of_fixed rfl rfl

theorem setFill (en : Byte) : Statement (.setFill en) := of_fixed rfl rfl

theorem drawRect (x0 y0 x1 y1 : Byte) (l f : Color) (use : Byte) : Statement (.drawRect x0 y0 x1 y1 l f use) := of_fixed rfl rfl

theorem drawLine (x0 y0 x1 y1 : Byte) (c : Color) : Statement (.drawLine x0 y0 x1 y1 c) := of_fixed rfl rfl

theorem drawDot (x y : Byte) (c : Color) : Statement (.drawDot x y c) := of_fixed rfl rfl

theorem fillScreen (c : Color) : Statement (.fillScreen c) := of_fixed rfl rfl

theorem clearScreen : Statement .clearScreen := of_fixed rfl rfl

theorem renderChar (x y ch : Byte) (c : Color) : Statement (.renderChar x y ch c) := of_fixed rfl rfl

theorem renderString (x y : Byte) (c : Color) (text : List Byte) : Statement (.renderString x y c text) := by
  intro hwf w hw
  have hlen : text.length ≤ 255 := of_decide_eq_true hwf
  simp only [encode, Option.some.injEq] at hw
  subst hw
  simp [frameLen]
  omega

theorem reservedZero : Statement .reservedZero := of_fixed rfl rfl

theorem reservedHigh (code : Byte) : Statement (.reservedHigh code) := by
  intro hwf w hw
  have hc : 11 ≤ code.toNat := of_decide_eq_true hwf
  cases hw
  have hne : ¬code = 10#8 := by rintro rfl; revert hc; decide
  have hfix : fixedLen code = 1 := by
    unfold fixedLen
    split <;> first | rfl | (exfalso; omega)
  simp [frameLen, hne, hfix]

theorem cmdDisplayOn : Statement .cmdDisplayOn := of_none rfl

theorem cmdRemap : Statement .cmdRemap := of_none rfl

theorem cmdContrastA : Statement .cmdContrastA := of_none rfl

theorem cmdContrastB : Statement .cmdContrastB := of_none rfl

theorem cmdContrastC : Statement .cmdContrastC := of_none rfl

theorem cmdMasterCurrent : Statement .cmdMasterCurrent := of_none rfl

theorem cmdFill (p1 : Byte) : Statement (.cmdFill p1) := of_none rfl

theorem cmdRect (x0 y0 x1 y1 : Byte) (l f : Color) : Statement (.cmdRect x0 y0 x1 y1 l f) := of_none rfl

theorem cmdLine (x0 y0 x1 y1 : Byte) (c : Color) : Statement (.cmdLine x0 y0 x1 y1 c) := of_none rfl

theorem cmdModeNormalOn : Statement .cmdModeNormalOn := of_none rfl

theorem cmdModeNormalOff : Statement .cmdModeNormalOff := of_none rfl

theorem cmdModeInverse : Statement .cmdModeInverse := of_none rfl

theorem tx (k : Kind) (b : Byte) : Statement (.tx k b) := of_none rfl

end Sys2Proof.Laws.FrameLength
end

