-- ==== Sys2Proof/Laws/Step.lean ====
section
/-!
SUPPORT. Sys2Proof/Laws/Step.lean: everything one step can do, said once.
-/

namespace Sys2Proof.Machine

/-- What a host write of `v` to REQ can come to (R74): the state before it is `s`, after it `t`. -/
inductive WriteReq (s : State) (v : Byte) : State → Prop where
  /-- Ignored while faulted. -/
  | ignored (hf : s.fault = true) : WriteReq s v s
  /-- BUSYWR while a request runs. -/
  | busywr (hf : s.fault = false) (hb : s.busy = true) : WriteReq s v (s.raise .busywr)
  /-- UNINIT at the first byte of a request other than INIT. -/
  | uninit (hf : s.fault = false) (hb : s.busy = false) (hx : s.rx = []) (hc : isRequestCode v = true)
      (h1 : v ≠ 0x01) (hi : s.initDone = false) : WriteReq s v (s.raise .uninit)
  /-- BADREQ: the byte is a whole frame by itself and the instruction it decodes to is a reserved code. -/
  | badreq (i : Instr) (hf : s.fault = false) (hb : s.busy = false) (hd : decode (s.rx ++ [v]) = .ok i)
      (hr : i.isReserved = true) : WriteReq s v (s.raise .badreq)
  /-- The byte completes the frame of a request, which is accepted. -/
  | accepted (i : Instr) (hf : s.fault = false) (hb : s.busy = false) (hd : decode (s.rx ++ [v]) = .ok i)
      (hr : i.isRequest = true) (hg : s.rx = [] → isRequestCode v = true → v ≠ 0x01 → s.initDone = true) :
      WriteReq s v (s.accept i (expand Config.params i))
  /-- The byte is stored. -/
  | stored (e : DecodeError) (hf : s.fault = false) (hb : s.busy = false) (hd : decode (s.rx ++ [v]) = .error e)
      (hg : s.rx = [] → isRequestCode v = true → v ≠ 0x01 → s.initDone = true) :
      WriteReq s v { s with rx := s.rx ++ [v] }

/-- A write to REQ comes to one of the six, either at once or through the instruction it runs. -/
theorem writeReq_spec (s : State) (v : Byte) :
    ∃ t, WriteReq s v t ∧ (s.writeReq v = .done t ∨ ∃ i, s.writeReq v = .run i s ∧ exec i s = .next t) := by
  unfold State.writeReq
  cases hf : s.fault with
  | true => exact ⟨_, .ignored hf, .inl rfl⟩
  | false =>
    cases hb : s.busy with
    | true => exact ⟨_, .busywr hf hb, .inl rfl⟩
    | false =>
      cases hg : s.rx.isEmpty && isRequestCode v && v != 0x01 && !s.initDone with
      | true =>
        simp only [Bool.and_eq_true, List.isEmpty_iff, bne_iff_ne, ne_eq, Bool.not_eq_true'] at hg
        obtain ⟨⟨⟨hx, hc⟩, h1⟩, hi⟩ := hg
        exact ⟨_, .uninit hf hb hx hc h1 hi, .inl rfl⟩
      | false =>
        have hg : s.rx = [] → isRequestCode v = true → v ≠ 0x01 → s.initDone = true := by
          intro hx hc h1
          have h1 : ¬v = 1#8 := h1
          simpa [hx, hc, h1] using hg
        cases hd : decode (s.rx ++ [v]) with
        | error e => exact ⟨_, .stored e hf hb hd hg, .inl (by simp [hf, hb])⟩
        | ok i =>
          cases hr : i.isRequest with
          | true => exact ⟨_, .accepted i hf hb hd hr hg, .inr ⟨i, rfl, exec_request hr s⟩⟩
          | false =>
            have hz := (decode_kind hd).resolve_left (by simp [hr])
            exact ⟨_, .badreq i hf hb hd hz, .inr ⟨i, rfl, exec_reserved hz s⟩⟩

/-- What one step can come to: a sequencer step, a host write, a host read or engine reset (R63). -/
inductive StepCase (s : State) : State → Prop where
  | seq (h : s.sched = [] ∨ s.sched.head? = some .seq) : StepCase s { s with sched := s.sched.tail }.seqStep
  | writeStatus (v : Byte) (h : s.sched.head? = some (.write .status v)) : StepCase s { s with sched := s.sched.tail }
  | writeReq (v : Byte) (t : State) (h : s.sched.head? = some (.write .req v))
      (w : WriteReq { s with sched := s.sched.tail } v t) : StepCase s t
  | read (q : Port) (h : s.sched.head? = some (.read q)) : StepCase s ({ s with sched := s.sched.tail }.hostRead q)
  | reset (h : s.sched.head? = some .reset) : StepCase s { s with sched := s.sched.tail }.engineReset

/-- Every step answers a next state, and one of these. -/
theorem step_spec (s : State) : ∃ t, StepCase s t ∧ step s = .next t := by
  unfold step State.takeNext
  match h : s.sched with
  | [] =>
    refine ⟨_, .seq (.inl h), ?_⟩
    have : { s with sched := s.sched.tail } = s := by cases s; simp_all
    rw [this]
  | .seq :: rest => exact ⟨_, .seq (.inr (by simp [h])), by simp [h]⟩
  | .write .status v :: rest => exact ⟨_, .writeStatus v (by simp [h]), by simp [h, State.hostWrite]⟩
  | .write .req v :: rest =>
    obtain ⟨t, hw, ht⟩ := writeReq_spec { s with sched := rest } v
    refine ⟨t, .writeReq v t (by simp [h]) (by simpa [h] using hw), ?_⟩
    rcases ht with ht | ⟨i, ht, he⟩
    · simp [State.hostWrite, ht]
    · simp [State.hostWrite, ht, he]
  | .read q :: rest => exact ⟨_, .read q (by simp [h]), by simp [h]⟩
  | .reset :: rest => exact ⟨_, .reset (by simp [h]), by simp [h]⟩

/-- The inversion of a step. -/
theorem step_cases {s t : State} (h : step s = .next t) : StepCase s t := by
  obtain ⟨u, hu, e⟩ := step_spec s
  cases (Host.Outcome.next.inj (h.symm.trans e))
  exact hu

/-- A sequencer step emits the head of `pend`, completes the request in flight, or leaves the state as it is (R27). -/
theorem seqStep_cases (s : State) :
    (∃ ev rest, s.pend = ev :: rest ∧ s.seqStep = { s with pend := rest }.emit ev) ∨
    (s.pend = [] ∧ s.busy = true ∧
      s.seqStep = { s with busy := false, initDone := s.initDone || s.cur == some .init, cur := none }) ∨
    (s.pend = [] ∧ s.busy = false ∧ s.seqStep = s) := by
  unfold State.seqStep
  match h : s.pend with
  | ev :: rest => exact .inl ⟨ev, rest, rfl, rfl⟩
  | [] =>
    cases hb : s.busy with
    | true => exact .inr (.inl ⟨rfl, rfl, rfl⟩)
    | false => exact .inr (.inr ⟨rfl, rfl, rfl⟩)

end Sys2Proof.Machine
end

