-- ==== Sys2Proof/Laws/Run.lean ====
section
/-!
SUPPORT. Sys2Proof/Laws/Run.lean: runs, step by step, and that `run` is the host's own `run` of the machine.
-/

namespace Sys2Proof.Machine

@[simp] theorem run_zero (s : State) : run 0 s = .next s := rfl

theorem run_succ {s t : State} (n : Nat) (h : step s = .next t) : run (n + 1) s = run n t := by
  simp only [run, h]

/-- A run in two parts. -/
theorem run_add {s t : State} (m n : Nat) (h : run m s = .next t) : run (m + n) s = run n t := by
  induction m generalizing s with
  | zero => cases h; simp
  | succ m ih =>
    obtain ⟨u, -, hu⟩ := step_spec s
    rw [run_succ m hu] at h
    rw [Nat.succ_add, run_succ _ hu, ih h]

/-- Every run answers a next state (R206). -/
theorem run_next (n : Nat) (s : State) : ∃ t, run n s = .next t := by
  induction n generalizing s with
  | zero => exact ⟨s, rfl⟩
  | succ n ih =>
    obtain ⟨u, -, hu⟩ := step_spec s
    obtain ⟨t, ht⟩ := ih u
    exact ⟨t, by rw [run_succ n hu, ht]⟩

/-- A property that every step keeps holds after every run from a state that has it. -/
theorem run_keeps {P : State → Prop} (hP : ∀ s t, P s → step s = .next t → P t) {n : Nat} {s t : State} (hs : P s)
    (h : run n s = .next t) : P t := by
  induction n generalizing s with
  | zero => cases h; exact hs
  | succ n ih =>
    obtain ⟨u, -, hu⟩ := step_spec s
    exact ih (hP s u hs hu) (run_succ n hu ▸ h)

/-- One step of a run, for any machine of the host's interface. -/
theorem coreRun_succ (M : Host.Core) {s t : M.State} (n : Nat) (h : M.step s = .next t) :
    M.run (n + 1) s = M.run n t := by
  rw [Host.Core.run, h]

/-- `run` is the run of the machine behind Host/Core.lean. -/
theorem core_run (n : Nat) (s : State) : Host.Core.run Sys2Proof.core n s = run n s := by
  induction n generalizing s with
  | zero => rfl
  | succ n ih =>
    obtain ⟨u, -, hu⟩ := step_spec s
    exact (coreRun_succ Sys2Proof.core n hu).trans ((ih u).trans (run_succ n hu).symm)

end Sys2Proof.Machine
end

