-- ==== Sys2Proof/Machine/Assembler.lean ====
section
/-!
DEFINITION. Sys2Proof/Machine/Assembler.lean: the assembler line of a request (R81). The assembler writes the frame of R73
for each line, which is `encode` of the request (log entry 16). Nothing of the machine depends on this file (D34).
-/

namespace Sys2Proof.Machine

/-- A number, in decimal (R81). -/
def asmByte (b : Byte) : String := toString b.toNat

/-- Operands with a comma between each two (R81). -/
def asmList (ops : List String) : String := ", ".intercalate ops

/-- A colour, `(r, g, b)` (R81). -/
def asmColor (c : Color) : String := "(" ++ asmList [asmByte c.r, asmByte c.g, asmByte c.b] ++ ")"

/-- May a byte stand as a character inside the quotes of STR: printable ASCII other than the quote? R81 gives no
escape, so a text with any other byte has no line. -/
def asmPlain (b : Byte) : Bool := 0x20 ≤ b.toNat && b.toNat ≤ 0x7E && b != 0x22

/-- The text of STR between quotes (R81). -/
def asmText (text : List Byte) : Option String :=
  if text.all asmPlain then some ("\"" ++ String.ofList (text.map fun b => Char.ofNat b.toNat) ++ "\"") else none

/-- The assembler line of a request (R81); no other instruction has one. -/
def asmLine : Instr → Option String
  | .init => some "INIT"
  | .setDisplayMode mode => some ("MODE " ++ asmByte mode)
  | .setFill en => some ("FILL " ++ asmByte en)
  | .drawRect x0 y0 x1 y1 l f use =>
    some ("RECT " ++ asmList [asmByte x0, asmByte y0, asmByte x1, asmByte y1, asmColor l, asmColor f, asmByte use])
  | .drawLine x0 y0 x1 y1 c =>
    some ("LINE " ++ asmList [asmByte x0, asmByte y0, asmByte x1, asmByte y1, asmColor c])
  | .drawDot x y c => some ("DOT " ++ asmList [asmByte x, asmByte y, asmColor c])
  | .fillScreen c => some ("FILLSCR " ++ asmColor c)
  | .clearScreen => some "CLS"
  | .renderChar x y ch c => some ("CHAR " ++ asmList [asmByte x, asmByte y, asmByte ch, asmColor c])
  | .renderString x y c text =>
    (asmText text).map fun t => "STR " ++ asmList [asmByte x, asmByte y, asmColor c, t]
  | .reservedZero | .reservedHigh _ | .cmdDisplayOn | .cmdRemap | .cmdContrastA | .cmdContrastB | .cmdContrastC
  | .cmdMasterCurrent | .cmdFill _ | .cmdRect .. | .cmdLine .. | .cmdModeNormalOn | .cmdModeNormalOff
  | .cmdModeInverse | .tx .. => none

end Sys2Proof.Machine
end

