-- ==== Sys2Proof/Tests/Slice0.lean ====
section
/-!
SUPPORT. Sys2Proof/Tests/Slice0.lean: tests and witnesses. An expected value is the spec's own (its rule or vector is
named), worked out from the spec's tables and never from the model. Where a test needs values of the OPEN parameters it
runs on `Params.sample`. A witness shows states and operands that meet the hypotheses of an obligation together.
-/

namespace Sys2Proof.Tests

open Sys2Proof.Machine

/-! ## Well-formedness: each check refuses an ill-formed term -/

theorem test_wf_text_of_256 : (Instr.renderString 0 0 .black (List.replicate 256 0x20)).wellFormed = false := by
  decide +kernel
theorem test_wf_text_of_255 : (Instr.renderString 0 0 .black (List.replicate 255 0x20)).wellFormed = true := by
  decide +kernel
theorem test_wf_reserved_below : (Instr.reservedHigh 0x0A).wellFormed = false := by decide
theorem test_wf_reserved_first : (Instr.reservedHigh 0x0B).wellFormed = true := by decide
theorem test_wf_fill_parameter : (Instr.cmdFill 0x02).wellFormed = false := by decide
theorem test_wf_fill_parameter_one : (Instr.cmdFill 0x01).wellFormed = true := by decide

/-! ## Decoding: words written out from R72, R73 and R76 -/

theorem test_decode_init : decode [0x01] = .ok .init := rfl
theorem test_decode_setDisplayMode : decode [0x02, 0x7E] = .ok (.setDisplayMode 0x7E) := rfl
theorem test_decode_setFill : decode [0x03, 0x80] = .ok (.setFill 0x80) := rfl
theorem test_decode_drawRect : decode [0x04, 10, 20, 30, 40, 1, 2, 3, 4, 5, 6, 7] =
    .ok (.drawRect 10 20 30 40 ⟨1, 2, 3⟩ ⟨4, 5, 6⟩ 7) := rfl
theorem test_decode_drawLine : decode [0x05, 0, 0, 0x9F, 0x7F, 0xFF, 0x80, 0] =
    .ok (.drawLine 0 0 159 127 ⟨255, 128, 0⟩) := rfl
theorem test_decode_drawDot : decode [0x06, 5, 6, 7, 8, 9] = .ok (.drawDot 5 6 ⟨7, 8, 9⟩) := rfl
theorem test_decode_fillScreen : decode [0x07, 1, 2, 3] = .ok (.fillScreen ⟨1, 2, 3⟩) := rfl
theorem test_decode_clearScreen : decode [0x08] = .ok .clearScreen := rfl
theorem test_decode_renderChar : decode [0x09, 10, 20, 0x60, 1, 2, 3] = .ok (.renderChar 10 20 0x60 ⟨1, 2, 3⟩) := rfl
theorem test_decode_renderString : decode [0x0A, 0, 10, 0xFF, 0xFE, 0xFD, 2, 0x60, 0x20] =
    .ok (.renderString 0 10 ⟨255, 254, 253⟩ [0x60, 0x20]) := rfl
theorem test_decode_renderString_empty : decode [0x0A, 0, 0, 0, 0, 0, 0] = .ok (.renderString 0 0 .black []) := rfl
theorem test_decode_reservedZero : decode [0x00] = .ok .reservedZero := rfl
theorem test_decode_reservedHigh : decode [0x0B] = .ok (.reservedHigh 0x0B) ∧ decode [0xFF] = .ok (.reservedHigh 0xFF) :=
  ⟨rfl, rfl⟩

/-- Rejected by name. -/
theorem test_decode_rejects : decode [] = .error .empty ∧ decode [0x05, 0, 0] = .error .incomplete ∧
    decode [0x0A, 0, 0, 0, 0, 0] = .error .incomplete ∧ decode [0x0A, 0, 0, 0, 0, 0, 1] = .error .incomplete ∧
    decode [0x08, 0x08] = .error .overlong ∧ decode [0x0B, 0] = .error .overlong := ⟨rfl, rfl, rfl, rfl, rfl, rfl⟩

/-- No controller op-code is decoded (R80): on REQ it is a reserved code (R76). -/
theorem test_decode_opcodes_are_reserved : decode [0xAF] = .ok (.reservedHigh 0xAF) ∧
    decode [0xA0] = .ok (.reservedHigh 0xA0) ∧ decode [0x87] = .ok (.reservedHigh 0x87) := ⟨rfl, rfl, rfl⟩

/-- A controller command and TX have no frame (R80, R100). -/
theorem test_encode_none : encode .cmdDisplayOn = none ∧ encode .cmdRemap = none ∧ encode .cmdContrastA = none ∧
    encode .cmdContrastB = none ∧ encode .cmdContrastC = none ∧ encode .cmdMasterCurrent = none ∧
    encode (.cmdFill 1) = none ∧ encode (.cmdRect 0 0 0 0 .black .black) = none ∧
    encode (.cmdLine 0 0 0 0 .black) = none ∧ encode .cmdModeNormalOn = none ∧ encode .cmdModeNormalOff = none ∧
    encode .cmdModeInverse = none ∧ encode (.tx .cmd 0) = none := by decide

/-- The first byte of a table word is its low byte, and the bits above the row's are 0. -/
theorem test_tableWord : decodeTableWord 8 0x02 = some (.setDisplayMode 0) ∧
    decodeTableWord 16 0x7E02 = some (.setDisplayMode 0x7E) ∧
    decodeTableWord 8 0x7E02 = some (.setDisplayMode 0) ∧
    decodeTableWord 8 0x0A = some (.renderString 0 0 .black []) ∧
    decodeTableWord 48 0x090807060506 = some (.drawDot 5 6 ⟨7, 8, 9⟩) ∧
    decodeTableWord 8 0xAF = some (.reservedHigh 0xAF) := by decide

/-! ## Assembler lines (R81; the programs of section 7) -/

theorem test_asm_dot : asmLine (.drawDot 5 6 ⟨7, 8, 9⟩) = some "DOT 5, 6, (7, 8, 9)" := by decide +kernel
theorem test_asm_str : asmLine (.renderString 40 10 .black [0x41, 0x42]) = some "STR 40, 10, (0, 0, 0), \"AB\"" ∧
    asmLine (.renderString 0 0 .black [0x22]) = none := by decide +kernel

/-! ## States for tests -/

/-- An engine with no request in flight. -/
def idle (initDone : Bool) (rx : List Byte) (acts : List Act) : State :=
  { State.reset with initDone := initDone, rx := rx, sched := acts }

/-- An engine with a request in flight. -/
def running (initDone : Bool) (cur : Instr) (pend : List Event) (acts : List Act) : State :=
  { State.reset with initDone := initDone, busy := true, cur := some cur, pend := pend, sched := acts }

/-- An engine that has raised UNINIT. -/
def faulted (acts : List Act) : State := { State.reset with fault := true, fcause := 2, sched := acts }

/-- What is read of the next state, if there is one. -/
def ofNext {α : Type} (r : Result) (f : State → α) : Option α :=
  match r with
  | .next t => some (f t)
  | .fault _ => none
  | .refused _ => none

/-- The wire view on the sample parameters, from unknown lines. -/
def sampleWire (i : Instr) : Option (List WireByte) := (wire .sample .reset (expand .sample i)).toOption

/-! ## STATUS and the REQ port (95_test_vectors.md section 3) -/

/-- V-ST-1. -/
theorem test_st_1 : status State.reset = 0x00 := by decide
/-- V-ST-2. -/
theorem test_st_2 : ofNext (step (idle false [] [.write .req 0x01])) status = some 0x01 := by decide
/-- V-ST-3: the completion step of INIT. -/
theorem test_st_3 : ofNext (step (running false .init [] [])) status = some 0x02 := by decide
/-- V-ST-4: the third byte of a part-written frame. -/
theorem test_st_4 : ofNext (step (idle true [0x05, 0] [.write .req 0])) status = some 0x22 := by decide
/-- V-ST-5: the eighth byte of DRAW_LINE. -/
theorem test_st_5 : ofNext (step (idle true [0x05, 0, 0, 0x9F, 0x7F, 0xFF, 0] [.write .req 0])) status = some 0x03 := by
  decide
/-- V-ST-6. -/
theorem test_st_6 : ofNext (step (idle false [] [.write .req 0x05])) status = some 0x14 := by decide
/-- V-ST-7. -/
theorem test_st_7 : ofNext (step (idle false [] [.write .req 0x0B])) status = some 0x0C := by decide
/-- V-ST-8. -/
theorem test_st_8 : ofNext (step (idle false [] [.write .req 0x00])) status = some 0x0C := by decide
/-- V-ST-9. -/
theorem test_st_9 : ofNext (step (idle true [] [.write .req 0xFF])) status = some 0x0E := by decide
/-- V-ST-10: BUSYWR during INIT, and STATUS once INIT has completed. -/
theorem test_st_10 : ofNext (step (running false .init [] [.write .req 0x08])) status = some 0x1D ∧
    ofNext (step { running false .init [] [] with fault := true, fcause := 3 }) status = some 0x1E := by decide
/-- V-ST-11: ignored while faulted. -/
theorem test_st_11 : ofNext (step (faulted [.write .req 0x01])) status = some 0x14 := by decide
/-- V-ST-12: only byte 0 of a frame is checked. -/
theorem test_st_12 : ofNext (step (idle true [0x05, 0x00] [.write .req 0x0B])) status = some 0x22 := by decide
/-- V-ST-13: an empty RENDER_STRING is accepted at its seventh byte, with no events, and completes. -/
theorem test_st_13 : ofNext (step (idle true [0x0A, 0, 0, 0, 0, 0] [.write .req 0])) status = some 0x03 ∧
    ofNext (step (running true (.renderString 0 0 .black []) [] [])) status = some 0x02 := by decide
/-- V-ST-14: accepted at the 262nd byte. -/
theorem test_st_14 : ofNext (step (idle true ([0x0A, 0, 0, 0, 0, 0, 0xFF] ++ List.replicate 254 0x20)
    [.write .req 0x20])) status = some 0x03 := by decide +kernel
/-- V-ST-15: the length byte is stored, the frame goes on. -/
theorem test_st_15 : ofNext (step (idle true [0x0A, 0, 0, 0, 0, 0] [.write .req 5])) status = some 0x22 ∧
    frameLen [0x0A, 0, 0, 0, 0, 0, 5] = some 12 := by decide
/-- V-ST-16: a read of port 0 returns 0x00. -/
theorem test_st_16 : ofNext (step (running true .init [] [.read .req])) State.hostSeen = some [0x00] := by decide
/-- V-ST-17: a write to port 1 does nothing. -/
theorem test_st_17 : step (idle true [0x05] [.write .status 0xFF]) = .next (idle true [0x05] []) := rfl

/-- R27, R63: a scheduled sequencer step emits one event, and the host access after it is still to come. -/
theorem test_seq : step (running true .clearScreen [.delay 2, .delay 3] [.seq, .read .status]) =
    .next { running true .clearScreen [.delay 3] [.read .status] with trace := [.delay 2] } := rfl

/-- V-RH-1: engine reset in the middle of a request. -/
theorem test_rh_1 : step { running true .clearScreen [.delay 2] [.reset] with lines := Lines.reset.apply (.cfgOut .cs) }
    = .next State.reset := rfl

/-! ## The step after `withFetchWord` runs the word's instruction -/

theorem test_fetchWord_reserved : ofNext (step (State.reset.withFetchWord 8 0x0B)) status = some 0x0E := by decide
theorem test_fetchWord_init : ofNext (step (State.reset.withFetchWord 8 0x01)) State.cur = some (some .init) := by
  decide
theorem test_fetchWord_drawRect : ofNext (step (State.reset.withFetchWord 8 0x04)) State.cur =
    some (some (.drawRect 0 0 0 0 .black .black 0)) := by decide

/-! ## Lines and the bus (R20, R100 to R104; vectors of section 2) -/

theorem test_line_index : Line.cs.index = 0 ∧ Line.dc.index = 1 ∧ Line.rst.index = 2 ∧ Line.en.index = 3 ∧
    (Line.d 0).index = 4 ∧ (Line.d 7).index = 11 := by decide

/-- V-TX-1. -/
theorem test_tx_1 : txEvents .sample .cmd 0xA5 =
    [.set .dc false, .set .cs false, .set (.d 0) true, .set (.d 1) false, .set (.d 2) true, .set (.d 3) false,
     .set (.d 4) false, .set (.d 5) true, .set (.d 6) false, .set (.d 7) true, .set .cs true] := by decide
/-- V-TX-7, on the machine's board: D6 is 1 and D7 is 0 after `TX(Dat, 7F)`. -/
theorem test_tx_7 : (ofNext (exec (.tx .dat 0x7F) State.reset) fun t => (t.lines.level (.d 6), t.lines.level (.d 7)))
    = some (some true, some false) := by decide
/-- V-TX-8: chip-select was unknown, not active, so nothing is latched. -/
theorem test_tx_8 : (wire .sample .reset [.set .cs true]).toOption = some [] := by decide
/-- U5: a latch that would read an unknown level is a fault. -/
theorem test_latch_unknown : wire .sample .reset [.set .cs false, .set .cs true] = .error .unknownLevel := rfl

/-! ## Requests (vectors of sections 4 and 5; on the sample FILL is F1, RECT F2, LINE F3, MODE_INVERSE F6) -/

/-- V-CP-1: the wire view of INIT, `INITW`. -/
theorem test_init_wire : sampleWire .init = some
    [⟨.cmd, 0xAF⟩, ⟨.cmd, 0xA0⟩, ⟨.cmd, 0xE0⟩, ⟨.cmd, 0x81⟩, ⟨.dat, 0x11⟩, ⟨.cmd, 0x82⟩, ⟨.dat, 0x12⟩, ⟨.cmd, 0x83⟩,
     ⟨.dat, 0x13⟩, ⟨.cmd, 0x87⟩, ⟨.dat, 0x14⟩, ⟨.cmd, 0xF1⟩, ⟨.dat, 0x01⟩, ⟨.cmd, 0xF2⟩, ⟨.dat, 0x00⟩, ⟨.dat, 0x00⟩,
     ⟨.dat, 0x9F⟩, ⟨.dat, 0x7F⟩, ⟨.dat, 0⟩, ⟨.dat, 0⟩, ⟨.dat, 0⟩, ⟨.dat, 0⟩, ⟨.dat, 0⟩, ⟨.dat, 0⟩] := by decide +kernel
/-- V-CP-21, V-RH-2: places of the INIT events (the list counts from 0), and the sum of the delays. -/
theorem test_init_events : (expand .sample .init).length = 284 ∧
    (expand .sample .init)[12]? = some (.set .en false) ∧ (expand .sample .init)[16]? = some (.delay 10) ∧
    (expand .sample .init)[28]? = some (.delay 200) ∧ (expand .sample .init)[282]? = some (.delay 2) ∧
    (expand .sample .init)[283]? = some (.set .en true) ∧ delaySum (expand .sample .init) = 222 := by decide +kernel
/-- V-CP-4, V-CP-5. -/
theorem test_setDisplayMode : sampleWire (.setDisplayMode 0xF6) = some [⟨.cmd, 0xF6⟩] ∧
    expand .sample (.setDisplayMode 0xF7) = [] := by decide
/-- V-CP-6, V-CP-8. -/
theorem test_setFill : sampleWire (.setFill 0x80) = some [⟨.cmd, 0xF1⟩, ⟨.dat, 0x01⟩] ∧
    sampleWire (.setFill 0) = some [⟨.cmd, 0xF1⟩, ⟨.dat, 0x00⟩] := by decide +kernel
/-- V-CP-10, V-CP-12. -/
theorem test_drawRect : sampleWire (.drawRect 10 20 30 40 ⟨1, 2, 3⟩ ⟨4, 5, 6⟩ 0) = some
    [⟨.cmd, 0xF1⟩, ⟨.dat, 0x00⟩, ⟨.cmd, 0xF2⟩, ⟨.dat, 0x0A⟩, ⟨.dat, 0x14⟩, ⟨.dat, 0x1E⟩, ⟨.dat, 0x28⟩,
     ⟨.dat, 3⟩, ⟨.dat, 2⟩, ⟨.dat, 1⟩, ⟨.dat, 6⟩, ⟨.dat, 5⟩, ⟨.dat, 4⟩] ∧
    (expand .sample (.drawRect 255 255 200 128 ⟨9, 8, 7⟩ ⟨6, 5, 4⟩ 1)).getLast? = some (.delay 2) := by decide +kernel
/-- V-CP-13. -/
theorem test_drawLine : sampleWire (.drawLine 0 0 159 127 ⟨255, 128, 0⟩) = some
    [⟨.cmd, 0xF3⟩, ⟨.dat, 0⟩, ⟨.dat, 0⟩, ⟨.dat, 0x9F⟩, ⟨.dat, 0x7F⟩, ⟨.dat, 0⟩, ⟨.dat, 0x80⟩, ⟨.dat, 0xFF⟩] := by
  decide +kernel
/-- V-CP-15. -/
theorem test_drawDot : sampleWire (.drawDot 5 6 ⟨7, 8, 9⟩) = some
    [⟨.cmd, 0xF3⟩, ⟨.dat, 5⟩, ⟨.dat, 6⟩, ⟨.dat, 5⟩, ⟨.dat, 6⟩, ⟨.dat, 9⟩, ⟨.dat, 8⟩, ⟨.dat, 7⟩] := by decide +kernel
/-- V-CP-18. -/
theorem test_fillScreen : sampleWire (.fillScreen ⟨255, 0, 0⟩) = some
    [⟨.cmd, 0xF1⟩, ⟨.dat, 1⟩, ⟨.cmd, 0xF2⟩, ⟨.dat, 0⟩, ⟨.dat, 0⟩, ⟨.dat, 0x9F⟩, ⟨.dat, 0x7F⟩,
     ⟨.dat, 0⟩, ⟨.dat, 0⟩, ⟨.dat, 0xFF⟩, ⟨.dat, 0⟩, ⟨.dat, 0⟩, ⟨.dat, 0xFF⟩] := by decide +kernel
/-- V-CP-19. -/
theorem test_clearScreen : sampleWire .clearScreen = some
    [⟨.cmd, 0xF1⟩, ⟨.dat, 1⟩, ⟨.cmd, 0xF2⟩, ⟨.dat, 0⟩, ⟨.dat, 0⟩, ⟨.dat, 0x9F⟩, ⟨.dat, 0x7F⟩,
     ⟨.dat, 0⟩, ⟨.dat, 0⟩, ⟨.dat, 0⟩, ⟨.dat, 0⟩, ⟨.dat, 0⟩, ⟨.dat, 0⟩] := by decide +kernel
/-- V-GR-1, V-GR-3: space has no event, the grave accent four lines. -/
theorem test_renderChar_unlisted : expand .sample (.renderChar 10 20 0x20 .black) = [] ∧
    (expand .sample (.renderChar 10 20 0x60 .black)).length = 352 := by decide +kernel
/-- V-GR-15: the sample's glyph of 0x41 ends with `Dot(2, 3)`. -/
theorem test_renderChar_dot : (sampleWire (.renderChar 10 20 0x41 ⟨7, 8, 9⟩)).map (List.drop 8) = some
    [⟨.cmd, 0xF3⟩, ⟨.dat, 0x0C⟩, ⟨.dat, 0x17⟩, ⟨.dat, 0x0C⟩, ⟨.dat, 0x17⟩, ⟨.dat, 9⟩, ⟨.dat, 8⟩, ⟨.dat, 7⟩] := by
  decide +kernel
/-- V-GR-12: the second character of a string at x = 250 stands at x = 0. -/
theorem test_renderString_wraps : (expand .sample (.renderString 250 0 .black [0x00, 0x00])).drop 352 =
    expand .sample (.renderChar 0 0 0x00 .black) := by decide +kernel
/-- V-GR-13: a space still advances. -/
theorem test_renderString_space : expand .sample (.renderString 0 0 .black [0x20, 0x20, 0x00]) =
    expand .sample (.renderChar 12 0 0x00 .black) := by decide +kernel
/-- V-GR-8, V-GR-14: coordinates wrap modulo 256, above and below. -/
theorem test_offset_wraps : offset 254 4 = 2 ∧ offset 0 (-6) = 250 ∧ offset 125 6 = 131 ∧
    charOrigin 0 42 = 252 ∧ charOrigin 0 43 = 2 := by decide
/-- V-GR-16: 94 supported codes and 162 others. -/
theorem test_supported_count : ((List.range 256).countP fun k => supported (BitVec.ofNat 8 k)) = 94 ∧
    ((List.range 256).countP fun k => !supported (BitVec.ofNat 8 k)) = 162 := by decide +kernel
/-- R161: the two places where the supported set has an edge inside printable ASCII, and its outer edges. -/
theorem test_supported_edges : supported 0x1F = false ∧ supported 0x20 = true ∧ supported 0x5F = true ∧
    supported 0x60 = false ∧ supported 0x61 = true ∧ supported 0x7E = true ∧ supported 0x7F = false := by decide
/-- R76, R201: a reserved code raises BADREQ and discards a part-written frame. -/
theorem test_reserved : exec .reservedZero (idle true [0x05] []) =
      .next { idle true [] [] with fault := true, fcause := 1 } ∧
    exec (.reservedHigh 0x80) (idle true [0x05] []) = .next { idle true [] [] with fault := true, fcause := 1 } :=
  ⟨rfl, rfl⟩
/-- R74: accepting a repeated INIT clears `init_done` and takes the whole list; another request leaves `init_done`. -/
theorem test_accept : (ofNext (exec .init (idle true [] [])) fun t => (t.initDone, t.busy, t.pend.length))
      = some (false, true, 284) ∧
    (ofNext (exec (.setFill 1) (idle true [0x03] [])) fun t => (t.initDone, t.rx, t.pend.length))
      = some (true, [], 22) := by decide +kernel

/-! ## Controller commands (R79, V-CP-20; the events on the sample) -/

theorem test_cmdDisplayOn : sampleWire .cmdDisplayOn = some [⟨.cmd, 0xAF⟩] := by decide +kernel
theorem test_cmdRemap : sampleWire .cmdRemap = some [⟨.cmd, 0xA0⟩, ⟨.cmd, 0xE0⟩] := by decide +kernel
theorem test_cmdContrastA : sampleWire .cmdContrastA = some [⟨.cmd, 0x81⟩, ⟨.dat, 0x11⟩] := by decide +kernel
theorem test_cmdContrastB : sampleWire .cmdContrastB = some [⟨.cmd, 0x82⟩, ⟨.dat, 0x12⟩] := by decide +kernel
theorem test_cmdContrastC : sampleWire .cmdContrastC = some [⟨.cmd, 0x83⟩, ⟨.dat, 0x13⟩] := by decide +kernel
theorem test_cmdMasterCurrent : sampleWire .cmdMasterCurrent = some [⟨.cmd, 0x87⟩, ⟨.dat, 0x14⟩] := by decide +kernel
theorem test_cmdFill : sampleWire (.cmdFill 1) = some [⟨.cmd, 0xF1⟩, ⟨.dat, 1⟩] := by decide +kernel
theorem test_cmdRect : sampleWire (.cmdRect 30 40 10 20 ⟨1, 2, 3⟩ ⟨4, 5, 6⟩) = some
    [⟨.cmd, 0xF2⟩, ⟨.dat, 30⟩, ⟨.dat, 40⟩, ⟨.dat, 10⟩, ⟨.dat, 20⟩, ⟨.dat, 3⟩, ⟨.dat, 2⟩, ⟨.dat, 1⟩,
     ⟨.dat, 6⟩, ⟨.dat, 5⟩, ⟨.dat, 4⟩] := by decide +kernel
theorem test_cmdLine : sampleWire (.cmdLine 159 127 0 0 ⟨1, 2, 3⟩) = some
    [⟨.cmd, 0xF3⟩, ⟨.dat, 0x9F⟩, ⟨.dat, 0x7F⟩, ⟨.dat, 0⟩, ⟨.dat, 0⟩, ⟨.dat, 3⟩, ⟨.dat, 2⟩, ⟨.dat, 1⟩] := by
  decide +kernel
theorem test_cmdMode : sampleWire .cmdModeNormalOn = some [⟨.cmd, 0xF4⟩] ∧
    sampleWire .cmdModeNormalOff = some [⟨.cmd, 0xF5⟩] ∧ sampleWire .cmdModeInverse = some [⟨.cmd, 0xF6⟩] := by
  decide +kernel
/-- On the machine's board: two bytes are 22 events, and bit 7 of REMAP's parameter 0xE0 stays on D7. -/
theorem test_exec_cmdRemap : (ofNext (exec .cmdRemap State.reset) fun t => (t.trace.length, t.lines.level (.d 7)))
    = some (22, some true) := by decide +kernel
/-- On the machine's board: a LINE command leaves the red channel's bits on the data lines (V-CP-20). -/
theorem test_exec_cmdLine : (ofNext (exec (.cmdLine 0 0 159 127 ⟨0xFE, 128, 0⟩) State.reset) fun t =>
    (t.trace.length, t.lines.level (.d 0), t.lines.level (.d 7))) = some (88, some false, some true) := by
  decide +kernel

/-! ## Witnesses: states and operands that meet the hypotheses of an obligation, clause by clause -/

theorem witness_EngineResetWorksFromAnyState :
    (running true .clearScreen [.delay 2] [.reset]).sched = .reset :: [] := rfl

/-- A schedule with an INIT write after three other actions, and one without. -/
theorem witness_ResetEngineStaysIdleUntilInitIsWritten :
    (Act.write .req 0x01 ∉ [Act.write .req 0x05, .seq, .read .status] ∧
      (3 ≤ [Act.write .req 0x05, .seq, .read .status].length ∨ [Act.write .req 0x01] = [])) ∧
    Act.write .req 0x01 ∉ [Act.write .status 0x01, .reset] ∧
      (7 ≤ [Act.write .status 0x01, .reset].length ∨ ([] : List Act) = []) := by decide

theorem witness_HostReadsAndStatusWritesChangeNothing :
    (running true .clearScreen [] [.read .req]).sched = .read .req :: [] ∧
    (running true .clearScreen [] [.read .status]).sched = .read .status :: [] ∧
    (running true .clearScreen [] [.write .status 7]).sched = .write .status 7 :: [] := ⟨rfl, rfl, rfl⟩

/-- R74's checks 1 and 2. -/
theorem witness_ReqWrite_ignored_and_busywr :
    (faulted [.write .req 1]).sched = .write .req 1 :: [] ∧ (faulted [.write .req 1]).fault = true ∧
    (running true .clearScreen [] [.write .req 1]).sched = .write .req 1 :: [] ∧
    (running true .clearScreen [] [.write .req 1]).fault = false ∧
    (running true .clearScreen [] [.write .req 1]).busy = true := by decide

/-- R74's BADREQ at its boundary codes 0x00, 0x0B and 0xFF. -/
theorem witness_ReqWrite_badreq : ∀ v ∈ [(0x00 : Byte), 0x0B, 0xFF],
    (idle true [] [.write .req v]).sched = .write .req v :: [] ∧ (idle true [] [.write .req v]).fault = false ∧
    (idle true [] [.write .req v]).busy = false ∧ (idle true [] [.write .req v]).rx = [] ∧
    ¬(1 ≤ v.toNat ∧ v.toNat ≤ 10) := by decide

/-- R74's UNINIT at its boundary codes 0x02 and 0x0A. -/
theorem witness_ReqWrite_uninit : ∀ v ∈ [(0x02 : Byte), 0x0A],
    (idle false [] [.write .req v]).sched = .write .req v :: [] ∧ (idle false [] [.write .req v]).fault = false ∧
    (idle false [] [.write .req v]).busy = false ∧ (idle false [] [.write .req v]).rx = [] ∧
    (2 ≤ v.toNat ∧ v.toNat ≤ 10) ∧ (idle false [] [.write .req v]).initDone = false := by decide

/-- R74's acceptance: INIT at the first byte, and the last byte of a longer frame. -/
theorem witness_ReqWrite_accepted :
    (idle false [] [.write .req 1]).fault = false ∧ (idle false [] [.write .req 1]).busy = false ∧
    ((idle false [] [.write .req 1]).rx = [] → (1 : Byte) = 0x01) ∧
    frameLen ((idle false [] [.write .req 1]).rx ++ [1]) = some ((idle false [] [.write .req 1]).rx ++ [1]).length ∧
    (idle true [0x03] [.write .req 9]).rx ≠ [] ∧
    frameLen ((idle true [0x03] [.write .req 9]).rx ++ [9]) =
      some ((idle true [0x03] [.write .req 9]).rx ++ [9]).length := by decide

/-- R74's stored byte: a first byte at the boundary codes 0x02 and 0x0A, and a later byte. -/
theorem witness_ReqWrite_stored :
    (∀ v ∈ [(0x02 : Byte), 0x0A], (2 ≤ v.toNat ∧ v.toNat ≤ 10) ∧ (idle true [] [.write .req v]).initDone = true ∧
      frameLen ((idle true [] [.write .req v]).rx ++ [v]) ≠
        some ((idle true [] [.write .req v]).rx ++ [v]).length) ∧
    frameLen ((idle true [0x0A, 0, 0, 0, 0, 0] [.write .req 5]).rx ++ [5]) ≠
      some ((idle true [0x0A, 0, 0, 0, 0, 0] [.write .req 5]).rx ++ [5]).length := by decide

theorem witness_StepRunsTheDecodedInstruction :
    (idle true [0x02] [.write .req 0x7E]).sched = .write .req 0x7E :: [] ∧
    (idle true [0x02] [.write .req 0x7E]).fault = false ∧ (idle true [0x02] [.write .req 0x7E]).busy = false ∧
    decode ((idle true [0x02] [.write .req 0x7E]).rx ++ [0x7E]) = .ok (.setDisplayMode 0x7E) ∧
    ((idle true [0x02] [.write .req 0x7E]).rx = [] → (Instr.setDisplayMode 0x7E).isRequest = true →
      Instr.setDisplayMode 0x7E = .init ∨ (idle true [0x02] [.write .req 0x7E]).initDone = true) :=
  ⟨rfl, rfl, rfl, rfl, fun _ _ => .inr rfl⟩

theorem witness_WritingAFrameRunsItsInstruction :
    (Instr.drawDot 5 6 ⟨7, 8, 9⟩).wellFormed = true ∧ encode (.drawDot 5 6 ⟨7, 8, 9⟩) = some [6, 5, 6, 7, 8, 9] ∧
    (idle true [] ([6, 5, 6, 7, 8, 9].map (.write .req))).fault = false ∧
    (idle true [] ([6, 5, 6, 7, 8, 9].map (.write .req))).busy = false ∧
    (idle true [] ([6, 5, 6, 7, 8, 9].map (.write .req))).rx = [] ∧
    ((Instr.drawDot 5 6 ⟨7, 8, 9⟩).isRequest = true → Instr.drawDot 5 6 ⟨7, 8, 9⟩ = .init ∨
      (idle true [] ([6, 5, 6, 7, 8, 9].map (.write .req))).initDone = true) ∧
    (idle true [] ([6, 5, 6, 7, 8, 9].map (.write .req))).sched = [6, 5, 6, 7, 8, 9].map (.write .req) ++ [] := by
  decide

/-- The longest text, 255 characters, is well formed and has a frame. -/
theorem witness_DecodeOfEncodeIsTheInstruction :
    (Instr.renderString 0 0 .black (List.replicate 255 0x20)).wellFormed = true ∧
    (encode (.renderString 0 0 .black (List.replicate 255 0x20))).map List.length = some 262 := by decide +kernel

theorem witness_EncodeOfDecodeIsTheFrame : decode [0x0A, 0, 10, 255, 255, 255, 2, 0x60, 0x20] =
    .ok (.renderString 0 10 ⟨255, 255, 255⟩ [0x60, 0x20]) := rfl

theorem witness_CommandsTransmitTheirTableRow : isCommand (.cmdFill 1) = true ∧
    isCommand (.cmdRect 0 0 255 255 .black .black) = true ∧ isCommand .cmdModeInverse = true := by decide

theorem witness_CommandsLeaveTheBusAtTheirLastByte : isCommand .cmdDisplayOn = true ∧
    isCommand (.cmdLine 0 0 255 255 .black) = true := by decide

/-- Both cases of SET_DISPLAY_MODE occur on every board: three codes cannot be all of 256. -/
theorem witness_SetDisplayModeSendsARecognisedCodeOnly :
    (∃ mode : Byte, mode = Config.params.modeNormalOn ∨ mode = Config.params.modeNormalOff ∨
      mode = Config.params.modeInverse) ∧
    ∃ mode : Byte, ¬(mode = Config.params.modeNormalOn ∨ mode = Config.params.modeNormalOff ∨
      mode = Config.params.modeInverse) := by
  refine ⟨⟨_, .inl rfl⟩, ?_⟩
  generalize Config.params.modeNormalOn = a
  generalize Config.params.modeNormalOff = b
  generalize Config.params.modeInverse = c
  by_contra h
  simp only [not_exists, not_not] at h
  have h0 := h 0
  have h1 := h 1
  have h2 := h 2
  have h3 := h 3
  bv_omega

/-- The boundary codes of the three ranges outside the supported set and of the two inside it; no code is in both. -/
theorem witness_RomHoldsNothingForSpaceAndTheBoxForTheRest :
    (∀ ch ∈ [(0x00 : Byte), 0x1F, 0x60, 0x7F, 0xFF], (ch.toNat ≤ 0x1F ∨ ch = 0x60 ∨ 0x7F ≤ ch.toNat) ∧
      ¬(0x21 ≤ ch.toNat ∧ ch.toNat ≤ 0x5F ∨ 0x61 ≤ ch.toNat ∧ ch.toNat ≤ 0x7E)) ∧
    ∀ ch ∈ [(0x21 : Byte), 0x5F, 0x61, 0x7E], (0x21 ≤ ch.toNat ∧ ch.toNat ≤ 0x5F ∨
      0x61 ≤ ch.toNat ∧ ch.toNat ≤ 0x7E) ∧ ¬(ch.toNat ≤ 0x1F ∨ ch = 0x60 ∨ 0x7F ≤ ch.toNat) := by decide

theorem witness_UnsupportedCodeRendersTheFourStrokeBox : ∀ ch ∈ [(0x00 : Byte), 0x1F, 0x60, 0x7F, 0xFF],
    ch.toNat ≤ 0x1F ∨ ch = 0x60 ∨ 0x7F ≤ ch.toNat := by decide

theorem witness_ReservedCodesRaiseBadreq : ∀ v ∈ [(0x00 : Byte), 0x0B, 0xFF],
    (v = 0x00 ∨ 0x0B ≤ v.toNat) ∧ (idle true [] [.write .req v]).sched = .write .req v :: [] ∧
    (idle true [] [.write .req v]).fault = false ∧ (idle true [] [.write .req v]).busy = false ∧
    (idle true [] [.write .req v]).rx = [] := by decide

theorem witness_DelaysOfEachRequest : (Instr.renderChar 0 0 0x60 .black).isRequest = true ∧
    Instr.renderChar 0 0 0x60 .black ≠ .init ∧ requestDelay Config.params (.renderChar 0 0 0x60 .black) = [] :=
  ⟨rfl, by decide, rfl⟩

/-- Each clause with an empty schedule and with a sequencer step scheduled before a host read. -/
theorem witness_SequencerStepEmitsOneEventOrCompletes : ∀ acts ∈ [[], [Act.seq, .read .status]],
    (acts = [] ∨ acts.head? = some .seq) ∧
    (running true .clearScreen [.delay 2] acts).sched = acts ∧
    (running true .clearScreen [.delay 2] acts).pend = .delay 2 :: [] ∧
    (running false .init [] acts).sched = acts ∧ (running false .init [] acts).pend = [] ∧
    (running false .init [] acts).busy = true ∧
    (idle true [0x05] acts).sched = acts ∧ (idle true [0x05] acts).pend = [] ∧
    (idle true [0x05] acts).busy = false := by decide

theorem witness_RequestInFlightRunsToCompletion :
    (running false .init [.set .en true, .delay 2] []).sched = [] ∧
    (running false .init [.set .en true, .delay 2] []).busy = true := by decide

theorem witness_BusywrDoesNotAbortTheRequest :
    (running false .init [.set .en true] [.write .req 8]).sched = [.write .req 8] ∧
    (running false .init [.set .en true] [.write .req 8]).busy = true ∧
    (running false .init [.set .en true] [.write .req 8]).fault = false := by decide

theorem witness_CompletedRequestIsItsCommandsInOrder :
    (Instr.drawRect 10 20 30 40 ⟨1, 2, 3⟩ ⟨4, 5, 6⟩ 1).isRequest = true ∧
    Instr.drawRect 10 20 30 40 ⟨1, 2, 3⟩ ⟨4, 5, 6⟩ 1 ≠ .init ∧ (idle true [] []).sched = [] := by decide

theorem witness_FaultLocksTheEngineUntilReset :
    (faulted [.write .req 1, .seq, .read .status]).fault = true ∧
    Act.reset ∉ (faulted [.write .req 1, .seq, .read .status]).sched := by decide

/-- One state for each of the three causes, the fault raised by its step. -/
theorem witness_FaultsComeFromReqWritesOnly :
    ∀ s ∈ [running true .clearScreen [] [.write .req 8], idle true [] [.write .req 0x0B],
        idle false [] [.write .req 0x0A]],
      s.fault = false ∧ ∃ t, step s = .next t ∧ t.fault = true := by
  intro s hs
  simp only [List.mem_cons, List.not_mem_nil, or_false] at hs
  rcases hs with rfl | rfl | rfl
  · exact ⟨rfl, _, rfl, rfl⟩
  · exact ⟨rfl, _, rfl, rfl⟩
  · exact ⟨rfl, _, rfl, rfl⟩

theorem witness_EveryStepHasANextState : (idle true [0x05] []).sched = [] ∧ (idle true [0x05] []).pend = [] ∧
    (idle true [0x05] []).busy = false := by decide

/-- `init_done` rises at the completion of INIT and falls at the acceptance of another. -/
theorem witness_InitDoneFollowsInitAlone :
    (∃ t, step (running false .init [] []) = .next t ∧
      (running false .init [] []).sched.head? ≠ some .reset ∧
      (running false .init [] []).initDone = false ∧ t.initDone = true) ∧
    ∃ t, step (idle true [] [.write .req 1]) = .next t ∧
      (idle true [] [.write .req 1]).sched.head? ≠ some .reset ∧
      (idle true [] [.write .req 1]).initDone = true ∧ t.initDone = false :=
  ⟨⟨_, rfl, by decide, rfl, rfl⟩, _, rfl, by decide, rfl, rfl⟩

theorem witness_BusySpansARequest :
    (∃ t, step (idle true [] [.write .req 8]) = .next t ∧
      (idle true [] [.write .req 8]).sched.head? ≠ some .reset ∧
      (idle true [] [.write .req 8]).busy = false ∧ t.busy = true) ∧
    ∃ t, step (running true .clearScreen [] []) = .next t ∧
      (running true .clearScreen [] []).sched.head? ≠ some .reset ∧
      (running true .clearScreen [] []).busy = true ∧ t.busy = false :=
  ⟨⟨_, rfl, by decide, rfl, rfl⟩, _, rfl, by decide, rfl, rfl⟩

theorem witness_StepsEmitOnlyTheHeadOfPend :
    ∃ t, step (running true .clearScreen [.delay 2] []) = .next t ∧
      (running true .clearScreen [.delay 2] []).sched.head? ≠ some .reset ∧ t.trace = [.delay 2] :=
  ⟨_, rfl, by decide, rfl⟩

theorem witness_HostCannotTouchTheRequestInFlight :
    (running true .clearScreen [.delay 2] [.write .req 8]).sched = .write .req 8 :: [] ∧
    Act.write .req 8 ≠ .seq ∧ Act.write .req 8 ≠ .reset ∧
    (running true .clearScreen [.delay 2] [.write .req 8]).busy = true ∧
    ∃ t, step (running true .clearScreen [.delay 2] [.write .req 8]) = .next t :=
  ⟨rfl, by decide, by decide, rfl, _, rfl⟩

/-- The state once INIT has completed: every event of INIT emitted, `init_done` set. -/
def afterInit (acts : List Act) : State :=
  { State.reset with
    lines := Lines.reset.applyAll (expand Config.params .init)
    initDone := true
    trace := expand Config.params .init
    sched := acts }

theorem afterInit_inv (acts : List Act) : (afterInit acts).Inv where
  fault_code := by simp [afterInit, State.reset]
  fault_rx := by simp [afterInit, State.reset]
  idle := by simp [afterInit, State.reset]
  running := by simp [afterInit, State.reset]
  part_written := by simp [afterInit, State.reset]
  lines_of_trace := by simp only [afterInit]
  history := ⟨[.init], by simp only [afterInit, State.reset, List.append_nil, List.flatMap_cons, List.flatMap_nil], by decide, by simp, by simp, by simp [afterInit, State.reset]⟩

/-- The same with two bytes of a DRAW_LINE frame written. -/
theorem partWritten_inv (acts : List Act) : ({ afterInit acts with rx := [0x05, 0] } : State).Inv where
  fault_code := by simp [afterInit, State.reset]
  fault_rx := by simp [afterInit, State.reset]
  idle := by simp [afterInit, State.reset]
  running := by simp [afterInit, State.reset]
  part_written := fun _ => ⟨rfl, 0x05, [0], rfl, rfl, rfl⟩
  lines_of_trace := by simp only [afterInit]
  history := ⟨[.init], by simp only [afterInit, State.reset, List.append_nil, List.flatMap_cons, List.flatMap_nil], by decide, by simp, by simp, by simp [afterInit, State.reset]⟩

/-- INIT just accepted. -/
theorem initRunning_inv (acts : List Act) : (running false .init (expand Config.params .init) acts).Inv where
  fault_code := by simp [running, State.reset]
  fault_rx := by simp [running, State.reset]
  idle := by simp [running]
  running := fun _ => ⟨rfl, .init, rfl, List.suffix_refl _, by simp [running]⟩
  part_written := by simp [running, State.reset]
  lines_of_trace := rfl
  history := ⟨[.init], by simp [running, State.reset], by decide, by simp, by simp, by simp [running]⟩

theorem witness_StepKeepsTheInvariant : (afterInit [.write .req 8]).Inv ∧
    ∃ t, step (afterInit [.write .req 8]) = .next t := ⟨afterInit_inv _, _, rfl⟩

theorem witness_EverySetIsPrecededByItsConfiguration : (afterInit []).Inv ∧ (afterInit []).trace.length = 284 :=
  ⟨afterInit_inv _, by decide +kernel⟩

theorem witness_IdleTraceIsTheRequestsWireViewsInOrder : (afterInit []).Inv ∧ (afterInit []).busy = false :=
  ⟨afterInit_inv _, rfl⟩

theorem witness_NoLatchReadsAnUnknownLevel : (running false .init (expand Config.params .init) []).Inv :=
  initRunning_inv _

theorem witness_PanelIsLiveOnceInitIsDone :
    (afterInit []).Inv ∧ (afterInit []).initDone = true ∧ (afterInit []).busy = false := ⟨afterInit_inv _, rfl, rfl⟩

theorem witness_FrameBufferStaysWithinItsBound :
    ({ afterInit [] with rx := [0x05, 0] } : State).Inv ∧
    ({ afterInit [] with rx := [0x05, 0] } : State).rx = 0x05 :: [0] ∧
    (running false .init (expand Config.params .init) []).Inv ∧
    (running false .init (expand Config.params .init) []).busy = true :=
  ⟨partWritten_inv _, rfl, initRunning_inv _, rfl⟩

theorem witness_AFinishedRunHasNoStep :
    (afterInit []).Inv ∧ (afterInit []).over = true ∧ (afterInit []).sched = [] := ⟨afterInit_inv _, rfl, rfl⟩

end Sys2Proof.Tests
end

/-!
Proofs: the decoder. When bytes are a whole frame, and how a frame grows byte by byte (R71 to R74).
-/

namespace Sys2Proof.Machine

/-! ## The decoder: whole frames and partial frames -/

theorem decodeOperands_wellFormed {code : Byte} {ops : List Byte} {i : Instr}
    (h : decodeOperands code ops = some i) : i.wellFormed = true := by
  revert h
  fun_cases decodeOperands code ops
  -- RENDER_STRING, its text as long as one byte says, and the reserved codes above 0x0A have a check to meet
  case case21 _ _ _ _ _ n text hlen =>
    rintro ⟨⟩
    have := n.isLt
    exact decide_eq_true (show text.length ≤ 255 by omega)
  case case24 =>
    rintro ⟨⟩
    simp only [imp_false] at *
    exact decide_eq_true (show 11 ≤ code.toNat by omega)
  all_goals rintro ⟨⟩ <;> rfl

/-- Only well-formed instructions are decoded (R72, R73, R76). -/
theorem decode_wellFormed {w : List Byte} {i : Instr} (h : decode w = .ok i) : i.wellFormed = true := by
  cases w with
  | nil => cases h
  | cons code ops => exact decodeOperands_wellFormed (decode_ok.1 h)

theorem frameLen_of_ne {code : Byte} (ops : List Byte) (hc : code ≠ 0x0A) :
    frameLen (code :: ops) = some (fixedLen code) := if_neg hc

theorem frameLen_renderString (ops : List Byte) :
    frameLen (0x0A :: ops) = ops[5]?.map fun n => 7 + n.toNat := rfl

/-- Once known, R74's frame length stays as more bytes are written. -/
theorem frameLen_append {w : List Byte} {n : Nat} (h : frameLen w = some n) (vs : List Byte) :
    frameLen (w ++ vs) = some n := by
  cases w with
  | nil => cases h
  | cons code ops =>
    by_cases hc : code = 0x0A
    · subst hc
      rw [frameLen_renderString, Option.map_eq_some_iff] at h
      obtain ⟨b, hb, rfl⟩ := h
      obtain ⟨hlt, -⟩ := List.getElem?_eq_some_iff.1 hb
      rw [List.cons_append, frameLen_renderString, List.getElem?_append_left hlt, hb]
      rfl
    · rw [frameLen_of_ne ops hc] at h
      rw [List.cons_append, frameLen_of_ne _ hc, h]

theorem fixedLen_bounds (code : Byte) : 1 ≤ fixedLen code ∧ fixedLen code ≤ 12 := by
  fun_cases fixedLen code <;> decide

/-- A frame is at most 262 bytes (R29, R73). -/
theorem frameLen_le {w : List Byte} {n : Nat} (h : frameLen w = some n) : n ≤ 262 := by
  cases w with
  | nil => cases h
  | cons code ops =>
    by_cases hc : code = 0x0A
    · subst hc
      rw [frameLen_renderString, Option.map_eq_some_iff] at h
      obtain ⟨b, -, rfl⟩ := h
      omega
    · rw [frameLen_of_ne ops hc] at h
      have := fixedLen_bounds code
      cases h
      omega

/-- R74's frame length is unknown only before the length byte of a RENDER_STRING. -/
theorem length_le_of_frameLen_none {w : List Byte} (h : frameLen w = none) : w.length ≤ 6 := by
  cases w with
  | nil => exact Nat.zero_le 6
  | cons code ops =>
    by_cases hc : code = 0x0A
    · subst hc
      rw [frameLen_renderString, Option.map_eq_none_iff, List.getElem?_eq_none_iff] at h
      exact Nat.succ_le_succ h
    · simp [frameLen_of_ne ops hc] at h

/-- A code whose frame is one byte long is a whole frame by itself (R73, R76). -/
theorem decodeOperands_nil {code : Byte} (hc : code ≠ 0x0A) (h1 : fixedLen code = 1) :
    ∃ i, decodeOperands code [] = some i := by
  have hk : code.toNat ≠ 10 := fun e => hc (BitVec.eq_of_toNat_eq e)
  generalize hops : ([] : List Byte) = ops
  -- a layout with operands contradicts `h1`, one without them reads the empty list
  fun_cases decodeOperands code ops
  all_goals simp_all [fixedLen]

/-- The layout of R73 of every code but RENDER_STRING's reads any operands of the right number. -/
theorem decodeOperands_of_fixedLen {code : Byte} {ops : List Byte} (hc : code ≠ 0x0A)
    (h : fixedLen code = ops.length + 1) : ∃ i, decodeOperands code ops = some i := by
  have hlen := h
  revert hlen
  -- case k is request code k, with its number of operands; case 10 is every other code
  fun_cases fixedLen code <;> intro hlen
  case case1 | case8 | case10 => match ops, h, hlen with | [], h, _ => exact decodeOperands_nil hc h
  case case2 hk | case3 hk => match ops, hlen with | [_], _ => simp [decodeOperands, hk]
  case case4 hk => match ops, hlen with | [_, _, _, _, _, _, _, _, _, _, _], _ => simp [decodeOperands, hk]
  case case5 hk => match ops, hlen with | [_, _, _, _, _, _, _], _ => simp [decodeOperands, hk]
  case case6 hk => match ops, hlen with | [_, _, _, _, _], _ => simp [decodeOperands, hk]
  case case7 hk => match ops, hlen with | [_, _, _], _ => simp [decodeOperands, hk]
  case case9 hk => match ops, hlen with | [_, _, _, _, _, _], _ => simp [decodeOperands, hk]

/-- The layout of RENDER_STRING reads a text as long as its length byte says (R73). -/
theorem decodeOperands_renderString {ops : List Byte} {n : Byte} (hn : ops[5]? = some n)
    (hlen : ops.length = 6 + n.toNat) : ∃ i, decodeOperands 0x0A ops = some i := by
  match ops, hn, hlen with
  | x :: y :: r :: g :: b :: m :: text, hn, hlen =>
    cases hn
    refine ⟨.renderString x y ⟨r, g, b⟩ text, if_pos ?_⟩
    simp only [List.length_cons] at hlen
    omega

/-- Bytes as many as R74's frame length are a whole frame. -/
theorem decode_of_frameLen {w : List Byte} (h : frameLen w = some w.length) : ∃ i, decode w = .ok i := by
  cases w with
  | nil => cases h
  | cons code ops =>
    simp only [decode_ok]
    by_cases hc : code = 0x0A
    · subst hc
      rw [frameLen_renderString, Option.map_eq_some_iff] at h
      obtain ⟨n, hn, hlen⟩ := h
      exact decodeOperands_renderString hn (by simp only [List.length_cons] at hlen; omega)
    · rw [frameLen_of_ne ops hc] at h
      exact decodeOperands_of_fixedLen hc (Option.some.inj h)

theorem needsMore_iff {w : List Byte} : needsMore w = true ↔ ∀ n, frameLen w = some n → w.length < n := by
  unfold needsMore
  cases frameLen w <;> simp

/-- One more byte after a frame that needs more goes at most to the frame's end. -/
theorem length_lt_of_frameLen_append {w : List Byte} {v : Byte} {n : Nat} (hw : needsMore w = true)
    (hn : frameLen (w ++ [v]) = some n) : w.length < n := by
  cases hl : frameLen w with
  | some m =>
    cases (frameLen_append hl [v]).symm.trans hn
    exact needsMore_iff.1 hw _ hl
  | none =>
    have h6 := length_le_of_frameLen_none hl
    cases w with
    | nil =>
      by_cases hv : v = 0x0A
      · subst hv; cases hn
      · cases (frameLen_of_ne [] hv).symm.trans hn
        exact (fixedLen_bounds v).1
    | cons code ops =>
      have hc : code = 0x0A := by
        by_contra hc
        simp [frameLen_of_ne ops hc] at hl
      subst hc
      rw [List.cons_append, frameLen_renderString, Option.map_eq_some_iff] at hn
      obtain ⟨b, -, rfl⟩ := hn
      omega

/-- A byte that does not complete the frame leaves it incomplete: no frame becomes too long (R74). -/
theorem decode_append_incomplete {w : List Byte} {v : Byte} {e : DecodeError} (hw : needsMore w = true)
    (h : decode (w ++ [v]) = .error e) : decode (w ++ [v]) = .error .incomplete := by
  have hmore : needsMore (w ++ [v]) = true := by
    rw [needsMore_iff]
    intro n hn
    have hlt := length_lt_of_frameLen_append hw hn
    have hne : n ≠ w.length + 1 := by
      rintro rfl
      obtain ⟨i, hi⟩ := decode_of_frameLen (w := w ++ [v]) (by simpa using hn)
      cases hi.symm.trans h
    simp only [List.length_append, List.length_singleton]
    omega
  obtain ⟨code, ops, hcons⟩ := List.exists_cons_of_ne_nil (List.concat_ne_nil v w)
  rw [hcons] at h hmore ⊢
  exact decode_incomplete.2 ⟨decode_error h, hmore⟩

/-- Only a request code begins a request's frame (R72). -/
theorem isRequestCode_of_decodeOperands {code : Byte} {ops : List Byte} {i : Instr}
    (h : decodeOperands code ops = some i) (hr : i.isRequest = true) : isRequestCode code = true := by
  revert h
  fun_cases decodeOperands code ops
  all_goals rintro ⟨⟩
  all_goals first | (cases hr; done) | simp [isRequestCode, *]

/-- A byte that is no whole frame by itself is a request code other than INIT's (R73, R76). -/
theorem isRequestCode_of_decode_error {v : Byte} {e : DecodeError} (h : decode [v] = .error e) :
    isRequestCode v = true ∧ v ≠ 0x01 := by
  have hnone := decode_error h
  refine ⟨?_, by rintro rfl; cases hnone⟩
  by_contra hv
  have hv : ¬(1 ≤ v.toNat ∧ v.toNat ≤ 10) := by simpa [isRequestCode] using hv
  have h1 : fixedLen v = 1 := by
    fun_cases fixedLen v <;> first | rfl | (exfalso; omega)
  obtain ⟨i, hi⟩ := decodeOperands_nil (by rintro rfl; exact hv (by decide)) h1
  cases hi.symm.trans hnone

/-! ## Partial frames -/

theorem PartialFrame.needsMore {w : List Byte} (h : PartialFrame w) : needsMore w = true := by
  obtain ⟨code, ops, rfl, -, hd⟩ := h
  exact (decode_incomplete.1 hd).2

/-- Storing a byte that completes no frame leaves a partial frame (R74). -/
theorem PartialFrame.store {w : List Byte} {v : Byte} {e : DecodeError} (hw : w = [] ∨ PartialFrame w)
    (h : decode (w ++ [v]) = .error e) : PartialFrame (w ++ [v]) := by
  rcases hw with rfl | hw
  · exact ⟨v, [], rfl, (isRequestCode_of_decode_error h).1, decode_append_incomplete rfl h⟩
  · have hmore := hw.needsMore
    obtain ⟨code, ops, rfl, hc, -⟩ := hw
    exact ⟨code, ops ++ [v], rfl, hc, decode_append_incomplete hmore h⟩

/-- A partial frame is shorter than the longest frame (R29). -/
theorem PartialFrame.length_lt {w : List Byte} (h : PartialFrame w) : w.length < 262 := by
  cases hl : frameLen w with
  | none =>
    have := length_le_of_frameLen_none hl
    omega
  | some n => exact Nat.lt_of_lt_of_le (needsMore_iff.1 h.needsMore n hl) (frameLen_le hl)

/-- A partial frame begins with the code of a request that has operands (R73). -/
theorem PartialFrame.code_bounds {code : Byte} {ops : List Byte} (h : PartialFrame (code :: ops)) :
    2 ≤ code.toNat ∧ code.toNat ≤ 10 := by
  have hmore := needsMore_iff.1 h.needsMore
  obtain ⟨_, _, ⟨⟩, hc, -⟩ := h
  have hne : code ≠ 0x01 := by
    rintro rfl
    exact absurd (hmore 1 rfl) (by simp)
  have hk : code.toNat ≠ 1 := fun e => hne (BitVec.eq_of_toNat_eq e)
  have hc : 1 ≤ code.toNat ∧ code.toNat ≤ 10 := by simpa [isRequestCode] using hc
  omega

end Sys2Proof.Machine

/-!
Proofs: the invariant (O45, O44) and what follows from it for the frame buffer (O50) and for the configuration of the
lines (O46). Each operation that a step can come to keeps the invariant; the step lemma puts them together.
-/

namespace Sys2Proof.Machine

/-! ## The invariant: one lemma per state operation -/

/-- The invariant says nothing of the two fields of the host. -/
theorem State.Inv.host {s : State} (h : s.Inv) (acts : List Act) (seen : List Byte) :
    ({ s with sched := acts, hostSeen := seen } : State).Inv where
  fault_code := h.fault_code
  fault_rx := h.fault_rx
  idle := h.idle
  running := h.running
  part_written := h.part_written
  lines_of_trace := h.lines_of_trace
  history := h.history.imp fun _ hr =>
    ⟨hr.events, hr.requests, hr.before_first, hr.init_first, hr.last_in_flight⟩

theorem reset_inv : State.reset.Inv where
  fault_code := by decide
  fault_rx := by decide
  idle := by decide
  running := by decide
  part_written h := absurd rfl h
  lines_of_trace := rfl
  history := ⟨[], rfl, by decide, fun _ => ⟨rfl, rfl⟩, fun h => absurd rfl h, by decide⟩

/-- While something is pending a request is in flight (R27). -/
theorem State.Inv.busy_of_pend {s : State} (h : s.Inv) (hp : s.pend ≠ []) : s.busy = true := by
  by_contra hb
  exact hp (h.idle (Bool.eq_false_iff.2 hb)).1

theorem State.Inv.partialFrame {s : State} (h : s.Inv) : s.rx = [] ∨ PartialFrame s.rx :=
  (em (s.rx = [])).imp_right fun hx => (h.part_written hx).2

/-- Raising a fault keeps the invariant (R201). -/
theorem State.Inv.raise {s : State} (h : s.Inv) (c : Cause) : (s.raise c).Inv where
  fault_code := by cases c <;> simp [Cause.code]
  fault_rx _ := rfl
  idle := h.idle
  running hb := ⟨rfl, (h.running hb).2⟩
  part_written hx := absurd rfl hx
  lines_of_trace := h.lines_of_trace
  history := h.history.imp fun _ hr =>
    ⟨hr.events, hr.requests, hr.before_first, hr.init_first, hr.last_in_flight⟩

/-- Storing a byte keeps the invariant when the bytes are a partial frame and INIT is done (R74). -/
theorem State.Inv.store {s : State} (h : s.Inv) {w : List Byte} (hf : s.fault = false) (hb : s.busy = false)
    (hi : s.initDone = true) (hw : PartialFrame w) : ({ s with rx := w } : State).Inv where
  fault_code := h.fault_code
  fault_rx hf' := by cases hf.symm.trans hf'
  idle := h.idle
  running hb' := by cases hb.symm.trans hb'
  part_written _ := ⟨hi, hw⟩
  lines_of_trace := h.lines_of_trace
  history := h.history.imp fun _ hr =>
    ⟨hr.events, hr.requests, hr.before_first, hr.init_first, hr.last_in_flight⟩

/-- An acceptance by an engine with nothing pending adds the request to the history (R74). -/
theorem State.History.accept {s : State} {rs : List Instr} (h : s.History rs) {i : Instr} (hp : s.pend = [])
    (hr : i.isRequest = true) (hwf : i.wellFormed = true) (hi : i ≠ .init → s.initDone = true) :
    (s.accept i (expand Config.params i)).History (rs ++ [i]) where
  events := by simp [← h.events, hp]
  requests r hr' := by
    rcases List.mem_append.1 hr' with hr' | hr'
    · exact h.requests r hr'
    · cases List.mem_singleton.1 hr'
      exact ⟨hr, hwf⟩
  before_first h := by simp at h
  init_first _ := by
    by_cases hrs : rs = []
    · have hinit : i = .init := by
        by_contra hne
        cases (h.before_first hrs).2.symm.trans (hi hne)
      simp [hrs, hinit]
    · simp [List.head?_append, h.init_first hrs]
  last_in_flight _ := by simp

/-- Accepting a well-formed request on an idle engine keeps the invariant (R74). -/
theorem State.Inv.accept {s : State} (h : s.Inv) {i : Instr} (hf : s.fault = false) (hb : s.busy = false)
    (hr : i.isRequest = true) (hwf : i.wellFormed = true) (hi : i ≠ .init → s.initDone = true) :
    (s.accept i (expand Config.params i)).Inv where
  fault_code := h.fault_code
  fault_rx hf' := by cases hf.symm.trans hf'
  idle hb' := by cases hb'
  running _ := by
    refine ⟨rfl, i, rfl, List.suffix_refl _, ?_⟩
    by_cases hinit : i = .init
    · simp [hinit]
    · simp [hinit, hi hinit]
  part_written hx := absurd rfl hx
  lines_of_trace := h.lines_of_trace
  history := by
    obtain ⟨rs, hrs⟩ := h.history
    exact ⟨rs ++ [i], hrs.accept (h.idle hb).1 hr hwf hi⟩

/-- Emitting the head of `pend` keeps the invariant (R27). -/
theorem State.Inv.emit {s : State} (h : s.Inv) {ev : Event} {rest : List Event} (hp : s.pend = ev :: rest) :
    (({ s with pend := rest } : State).emit ev).Inv where
  fault_code := h.fault_code
  fault_rx := h.fault_rx
  idle hb := by
    obtain ⟨hnil, -⟩ := h.idle hb
    cases hp.symm.trans hnil
  running hb := by
    obtain ⟨hx, i, hi, hsuf, hdone⟩ := h.running hb
    refine ⟨hx, i, hi, ?_, hdone⟩
    exact (List.suffix_cons ev rest).trans (hp ▸ hsuf)
  part_written := h.part_written
  lines_of_trace := by simp [h.lines_of_trace]
  history := h.history.imp fun _ hr =>
    ⟨by simpa [hp] using hr.events, hr.requests, hr.before_first, hr.init_first, hr.last_in_flight⟩

/-- Completing the request in flight keeps the invariant (R27). -/
theorem State.Inv.complete {s : State} (h : s.Inv) (hp : s.pend = []) (hb : s.busy = true) (done : Bool) :
    ({ s with busy := false, initDone := done, cur := none } : State).Inv where
  fault_code := h.fault_code
  fault_rx := h.fault_rx
  idle _ := ⟨hp, rfl⟩
  running hb' := by cases hb'
  part_written hx := absurd (h.running hb).1 hx
  lines_of_trace := h.lines_of_trace
  history := h.history.imp fun _ hr => by
    refine ⟨hr.events, hr.requests, fun hnil => ?_, hr.init_first, fun hb' => by cases hb'⟩
    cases (hr.before_first hnil).1.symm.trans hb

/-! ## The invariant: the sequencer step and the REQ write -/

theorem State.Inv.seqStep {s : State} (h : s.Inv) : s.seqStep.Inv := by
  rcases seqStep_cases s with ⟨ev, rest, hp, e⟩ | ⟨hp, hb, e⟩ | ⟨-, -, e⟩ <;> rw [e]
  · exact h.emit hp
  · exact h.complete hp hb _
  · exact h

/-- A frame that decodes to a request other than INIT is completed only once INIT is done (R74, R200). -/
theorem State.Inv.initDone_of_decode {s : State} (h : s.Inv) {v : Byte} {i : Instr}
    (hd : decode (s.rx ++ [v]) = .ok i) (hr : i.isRequest = true)
    (hg : s.rx = [] → isRequestCode v = true → v ≠ 0x01 → s.initDone = true) (hi : i ≠ .init) :
    s.initDone = true := by
  by_cases hx : s.rx = []
  · rw [hx, List.nil_append] at hd
    refine hg hx (isRequestCode_of_decodeOperands (decode_ok.1 hd) hr) ?_
    rintro rfl
    cases hd
    exact hi rfl
  · exact (h.part_written hx).1

/-- A byte is stored only once INIT is done (R74, R200). -/
theorem State.Inv.initDone_of_store {s : State} (h : s.Inv) {v : Byte} {e : DecodeError}
    (hd : decode (s.rx ++ [v]) = .error e)
    (hg : s.rx = [] → isRequestCode v = true → v ≠ 0x01 → s.initDone = true) : s.initDone = true := by
  by_cases hx : s.rx = []
  · rw [hx, List.nil_append] at hd
    obtain ⟨hc, h1⟩ := isRequestCode_of_decode_error hd
    exact hg hx hc h1
  · exact (h.part_written hx).1

theorem WriteReq.inv {s t : State} {v : Byte} (w : WriteReq s v t) (h : s.Inv) : t.Inv := by
  cases w with
  | ignored => exact h
  | busywr => exact h.raise _
  | uninit => exact h.raise _
  | badreq => exact h.raise _
  | accepted i hf hb hd hr hg => exact h.accept hf hb hr (decode_wellFormed hd) (h.initDone_of_decode hd hr hg)
  | stored e hf hb hd hg => exact h.store hf hb (h.initDone_of_store hd hg) (.store h.partialFrame hd)

theorem StepCase.inv {s t : State} (c : StepCase s t) (h : s.Inv) : t.Inv := by
  have hs : ({ s with sched := s.sched.tail } : State).Inv := h.host _ _
  cases c with
  | seq => exact hs.seqStep
  | writeStatus => exact hs
  | writeReq v t _ w => exact w.inv hs
  | read q => exact h.host _ _
  | reset => exact reset_inv.host _ _

/-- Settles O45, by the case of the step: each operation a step can come to keeps the invariant. -/
theorem stepKeepsTheInvariant : Obligations.StepKeepsTheInvariant := fun _ _ h hstep => (step_cases hstep).inv h

/-- Settles O44: the reset state meets the invariant, which says nothing of the schedule. -/
theorem resetMeetsTheInvariant : Obligations.ResetMeetsTheInvariant := fun acts => reset_inv.host acts []

/-- Settles O50: a frame that is part-written is a partial frame, and none is while a request runs. -/
theorem frameBufferStaysWithinItsBound : Obligations.FrameBufferStaysWithinItsBound := by
  intro s h
  refine ⟨?_, fun hb => (h.running hb).1, fun code ops hx => ?_⟩
  · rcases h.partialFrame with hx | hw
    · simp [hx]
    · exact hw.length_lt
  · obtain ⟨-, hw⟩ := h.part_written (by simp [hx])
    exact PartialFrame.code_bounds (hx ▸ hw)

/-! ## Every line set was configured before -/

/-- A beginning of a list sets configured lines only if the list does (R23). -/
theorem SetsConfigured.of_append {es fs : List Event} (h : SetsConfigured (es ++ fs)) : SetsConfigured es :=
  fun before after l v e => h before (after ++ fs) l v (by simp [e])

theorem cfgOut_mem_configureEvents (l : Line) : .cfgOut l ∈ configureEvents := by
  cases l with
  | d k => fin_cases k <;> decide
  | _ => decide

theorem set_not_mem_configureEvents (l : Line) (v : Level) : .set l v ∉ configureEvents := by
  simp [configureEvents]

/-- After the twelve configurations of INIT every line may be set (R122). -/
theorem setsConfigured_configureEvents_append (es : List Event) : SetsConfigured (configureEvents ++ es) := by
  intro before after l v e
  have hbefore : configureEvents <+: before := by
    rcases List.append_eq_append_iff.1 e with ⟨mid, hmid, -⟩ | ⟨mid, hmid, htail⟩
    · exact ⟨mid, hmid.symm⟩
    · cases mid with
      | nil => simp [hmid]
      | cons ev mid =>
        obtain ⟨rfl, -⟩ := List.cons.inj htail
        exact absurd (by simp [hmid]) (set_not_mem_configureEvents l v)
  exact hbefore.subset (cfgOut_mem_configureEvents l)

/-- INIT begins with the twelve configurations (R122). -/
theorem initEvents_eq_configureEvents_append (p : Params) : ∃ es, initEvents p = configureEvents ++ es := by
  simp only [initEvents, List.append_assoc]
  exact ⟨_, rfl⟩

/-- The events of a history begin with the configurations of INIT, if there is any event. -/
theorem State.History.setsConfigured {s : State} {rs : List Instr} (h : s.History rs) : SetsConfigured s.trace := by
  refine SetsConfigured.of_append (fs := s.pend) ?_
  rw [h.events]
  cases rs with
  | nil =>
    intro before after l v e
    simp at e
  | cons r rs =>
    have hr : r = .init := by simpa using h.init_first (List.cons_ne_nil r rs)
    obtain ⟨es, hes⟩ := initEvents_eq_configureEvents_append Config.params
    rw [hr, List.flatMap_cons, expand, hes, List.append_assoc]
    exact setsConfigured_configureEvents_append _

/-- Settles O46: INIT is accepted first, and it begins by configuring all twelve lines. -/
theorem everySetIsPrecededByItsConfiguration : Obligations.EverySetIsPrecededByItsConfiguration := by
  intro s h
  obtain ⟨rs, hrs⟩ := h.history
  exact hrs.setsConfigured

end Sys2Proof.Machine

/-!
Proofs: STATUS, reset and events (O4, O1, O13), the sequencer's steps (O32, O33, O38), and what a step changes of the
request in flight (O39, O40, O41).
-/

namespace Sys2Proof.Machine

/-! ## STATUS and the reset state -/

@[simp] theorem getElem_bit8 (b : Bool) {k : Nat} (hk : k < 8) : (bit8 b)[k] = (decide (k = 0) && b) := by
  cases b <;> cases k <;> simp [bit8]

/-- Settles O4: every shift puts its field at its own bits of STATUS. -/
theorem statusHoldsItsFields : Obligations.StatusHoldsItsFields := by
  intro s
  refine ⟨?busy, ?initDone, ?fault, ?fcause, ?rxpend, ?bit6, ?bit7⟩
  case fcause =>
    ext k hk
    have : k = 0 ∨ k = 1 := by omega
    rcases this with rfl | rfl <;> simp [status]
  all_goals simp [status, State.rxPend]

/-- Settles O1. -/
theorem resetStateHoldsTheResetValues : Obligations.ResetStateHoldsTheResetValues :=
  ⟨fun l => ⟨Lines.isOut_reset l, Lines.level_reset l⟩, rfl, rfl, rfl, rfl, rfl, rfl, rfl, rfl, by decide⟩

/-- Settles O13. -/
theorem eventAppliesToItsLineAlone : Obligations.EventAppliesToItsLineAlone := by
  intro L l k v d
  refine ⟨?_, Lines.level_cfgOut L l k, Lines.isOut_set L l k v, Lines.level_set L l k v, Lines.apply_delay L d⟩
  rw [Lines.isOut_cfgOut]
  by_cases h : k = l <;> simp [h]

/-! ## The sequencer step -/

theorem State.seqStep_emit {s : State} {ev : Event} {rest : List Event} (hp : s.pend = ev :: rest) :
    s.seqStep = ({ s with pend := rest } : State).emit ev := by
  simp [State.seqStep, hp]

theorem State.seqStep_complete {s : State} (hp : s.pend = []) (hb : s.busy = true) :
    s.seqStep = { s with
      busy := false, cur := none, initDone := if s.cur = some .init then true else s.initDone } := by
  by_cases hc : s.cur = some .init <;> simp [State.seqStep, hp, hb, hc]

theorem State.seqStep_idle {s : State} (hp : s.pend = []) (hb : s.busy = false) : s.seqStep = s := by
  simp [State.seqStep, hp, hb]

/-- With the sequencer's turn next, a step is its step (R63). -/
theorem step_eq_seqStep {s : State} (h : s.sched = [] ∨ s.sched.head? = some .seq) :
    step s = .next ({ s with sched := s.sched.tail } : State).seqStep := by
  obtain ⟨t, c, e⟩ := step_spec s
  cases c with
  | seq => exact e
  | writeStatus _ h' | writeReq _ _ h' | read _ h' | reset h' =>
    rcases h with h | h
    · simp [h] at h'
    · cases h.symm.trans h'

theorem step_emit {s : State} (h : s.sched = [] ∨ s.sched.head? = some .seq) {ev : Event} {rest : List Event}
    (hp : s.pend = ev :: rest) : step s = .next (({ s with sched := s.sched.tail, pend := rest } : State).emit ev) :=
  (step_eq_seqStep h).trans (congrArg _ (State.seqStep_emit (s := { s with sched := s.sched.tail }) hp))

theorem step_complete {s : State} (h : s.sched = [] ∨ s.sched.head? = some .seq) (hp : s.pend = [])
    (hb : s.busy = true) :
    step s = .next { s with
      sched := s.sched.tail
      busy := false
      cur := none
      initDone := if s.cur = some .init then true else s.initDone } :=
  (step_eq_seqStep h).trans (congrArg _ (State.seqStep_complete (s := { s with sched := s.sched.tail }) hp hb))

theorem step_idle {s : State} (h : s.sched = [] ∨ s.sched.head? = some .seq) (hp : s.pend = [])
    (hb : s.busy = false) : step s = .next { s with sched := s.sched.tail } :=
  (step_eq_seqStep h).trans (congrArg _ (State.seqStep_idle (s := { s with sched := s.sched.tail }) hp hb))

/-- Settles O32, by the three branches of the sequencer step. -/
theorem sequencerStepEmitsOneEventOrCompletes : Obligations.SequencerStepEmitsOneEventOrCompletes :=
  fun _ h => ⟨fun _ _ hp => step_emit h hp, step_complete h, step_idle h⟩

/-- Settles O38: a step always answers, and with nothing to do there is no schedule to move on. -/
theorem everyStepHasANextState : Obligations.EveryStepHasANextState := by
  intro s
  obtain ⟨t, -, ht⟩ := step_spec s
  refine ⟨⟨t, ht⟩, fun hs hp hb => ?_⟩
  have hsame : s.sched.tail = s.sched := by rw [hs, List.tail_nil]
  rw [step_idle (.inl hs) hp hb, hsame]

/-- Settles O33, by induction on the pending events: each step emits the head, and one more step completes. -/
theorem requestInFlightRunsToCompletion : Obligations.RequestInFlightRunsToCompletion := by
  intro s hs hb
  generalize hp : s.pend = es
  induction es generalizing s with
  | nil =>
    rw [List.length_nil, run_succ 0 (step_complete (.inl hs) hp hb)]
    simp [hs, hp]
  | cons ev es ih =>
    rw [List.length_cons, run_succ _ (step_emit (.inl hs) hp),
      ih (({ s with sched := s.sched.tail, pend := es } : State).emit ev) (by simp [hs]) hb rfl]
    simp [hs]

/-! ## What a step changes of the request in flight -/

/-- What a step other than engine reset does to the lines, the trace and the request in flight: nothing, or the
sequencer emits the head of `pend` or completes the request, or a REQ write is accepted (R24, R25, R27, R60). -/
inductive StepEffect (s t : State) : Prop where
  /-- A host access without an acceptance, or an idle engine's step. -/
  | none (hl : t.lines = s.lines) (ht : t.trace = s.trace) (hb : t.busy = s.busy) (hi : t.initDone = s.initDone)
      (hc : t.cur = s.cur) (hp : t.pend = s.pend)
  /-- The head of `pend` is emitted. -/
  | emitted (ev : Event) (hl : t.lines = s.lines.apply ev) (ht : t.trace = s.trace ++ [ev]) (hb : t.busy = s.busy)
      (hi : t.initDone = s.initDone) (hc : t.cur = s.cur) (hp : s.pend = ev :: t.pend)
  /-- The request in flight completes, all its events emitted. -/
  | completed (hs : s.sched = [] ∨ s.sched.head? = some .seq) (hp : s.pend = []) (hb : s.busy = true)
      (ht : t = { s with
        sched := s.sched.tail
        busy := false
        cur := .none
        initDone := if s.cur = some .init then true else s.initDone })
  /-- An idle, unfaulted engine accepts a request. -/
  | accepted (i : Instr) (hr : i.isRequest = true) (hf : s.fault = false) (hb : s.busy = false)
      (ht : t = ({ s with sched := s.sched.tail } : State).accept i (expand Config.params i))

theorem seqStep_effect {s : State} (h : s.sched = [] ∨ s.sched.head? = some .seq) :
    StepEffect s ({ s with sched := s.sched.tail } : State).seqStep := by
  rcases seqStep_cases { s with sched := s.sched.tail } with ⟨ev, rest, hp, e⟩ | ⟨hp, hb, -⟩ | ⟨-, -, e⟩
  · rw [e]
    exact .emitted ev rfl rfl rfl rfl rfl hp
  · exact .completed h hp hb (State.seqStep_complete (s := { s with sched := s.sched.tail }) hp hb)
  · rw [e]
    exact .none rfl rfl rfl rfl rfl rfl

theorem WriteReq.effect {s t : State} {v : Byte} (w : WriteReq { s with sched := s.sched.tail } v t) :
    StepEffect s t := by
  cases w with
  | ignored | busywr | uninit | badreq | stored => exact .none rfl rfl rfl rfl rfl rfl
  | accepted i hf hb _ hr => exact .accepted i hr hf hb rfl

theorem step_effect {s t : State} (h : step s = .next t) (hreset : s.sched.head? ≠ some .reset) :
    StepEffect s t := by
  cases step_cases h with
  | seq hs => exact seqStep_effect hs
  | writeReq _ _ _ w => exact w.effect
  | writeStatus | read => exact .none rfl rfl rfl rfl rfl rfl
  | reset hr => exact absurd hr hreset

/-- Settles O39, by the effect of the step: only a completion and an acceptance change `init_done`. -/
theorem initDoneFollowsInitAlone : Obligations.InitDoneFollowsInitAlone := by
  intro s t h hreset
  cases step_effect h hreset with
  | none _ _ _ hi => simp_all
  | emitted _ _ _ _ hi => simp_all
  | completed _ hp hb ht =>
    subst ht
    by_cases hc : s.cur = some .init <;> simp_all
  | accepted i _ hf hb ht =>
    subst ht
    by_cases hi : i = .init <;> simp_all

/-- Settles O40, by the effect of the step: only a completion and an acceptance change `busy`. -/
theorem busySpansARequest : Obligations.BusySpansARequest := by
  intro s t h hreset
  cases step_effect h hreset with
  | none _ _ hb => simp_all
  | emitted _ _ _ hb => simp_all
  | completed hs hp hb ht =>
    subst ht
    exact ⟨fun hb' => (by cases hb.symm.trans hb'), fun _ _ => ⟨hs, hp, rfl⟩⟩
  | accepted i hr hf hb ht =>
    subst ht
    exact ⟨fun _ _ => ⟨i, hr, rfl, rfl, rfl, hf⟩, fun hb' => (by cases hb.symm.trans hb')⟩

/-- Settles O41, by the effect of the step. -/
theorem stepsEmitOnlyTheHeadOfPend : Obligations.StepsEmitOnlyTheHeadOfPend := by
  intro s t h hreset
  cases step_effect h hreset with
  | none hl ht => exact .inl ⟨hl, ht⟩
  | emitted ev hl ht _ _ _ hp => exact .inr ⟨ev, hp, hl, ht⟩
  | completed _ _ _ ht | accepted _ _ _ _ ht =>
    subst ht
    exact .inl ⟨rfl, rfl⟩

end Sys2Proof.Machine

/-!
Proofs: a request is its controller commands in order and then its delay (O35).
-/

namespace Sys2Proof.Machine

/-! ## A request as its controller commands -/

theorem charOrigin_zero (x : Byte) : charOrigin x 0 = x := by simp [charOrigin]

/-- Each next character of a string stands 6 to the right, modulo 256 (R167). -/
theorem charOrigin_succ (x : Byte) (k : Nat) : charOrigin x (k + 1) = charOrigin (x + 6) k := by
  apply BitVec.eq_of_toNat_eq
  have h6 : (6 : Byte).toNat = 6 := rfl
  simp only [charOrigin, Config.stride, BitVec.toNat_ofNat, BitVec.toNat_add, h6]
  omega

/-- A string is its first character, then the rest of it 6 to the right (R167). -/
theorem renderStringEvents_cons (p : Params) (x y : Byte) (c : Color) (ch : Byte) (text : List Byte) :
    renderStringEvents p x y c (ch :: text) =
      renderCharEvents p x y ch c ++ renderStringEvents p (x + 6) y c text := by
  simp only [renderStringEvents, List.zipIdx_cons, List.flatMap_cons, charOrigin_zero, Nat.zero_add]
  rw [List.zipIdx_succ, List.flatMap_map]
  simp only [charOrigin_succ]

theorem expand_primCommand (p : Params) (x y : Byte) (c : Color) (q : Prim) :
    expand p (primCommand x y c q) = primEvents p x y c q := by
  cases q <;> rfl

theorem charCommands_events (p : Params) (x y ch : Byte) (c : Color) :
    ((romRead p ch).map (primCommand x y c)).flatMap (expand p) = renderCharEvents p x y ch c := by
  simp only [List.flatMap_map, expand_primCommand, renderCharEvents]

theorem stringCommands_events (p : Params) (x y : Byte) (c : Color) (text : List Byte) :
    (stringCommands p x y c text).flatMap (expand p) = renderStringEvents p x y c text := by
  induction text generalizing x with
  | nil => rfl
  | cons ch text ih => rw [stringCommands, List.flatMap_append, charCommands_events, ih, renderStringEvents_cons]

theorem modeCommands_events (p : Params) (mode : Byte) :
    (requestCommands p (.setDisplayMode mode)).flatMap (expand p) = setDisplayModeEvents p mode := by
  simp only [requestCommands, setDisplayModeEvents]
  split_ifs <;> simp_all [expand]

theorem rectCommands_events (p : Params) (x0 y0 x1 y1 : Byte) (l f : Color) (use : Byte) :
    [Instr.cmdFill (boolByte use), .cmdRect x0 y0 x1 y1 l f].flatMap (expand p) ++ [.delay p.tRect] =
      drawRectEvents p x0 y0 x1 y1 l f use := by
  simp [expand, drawRectEvents, setFillEvents]

/-- The events of a request other than INIT are those of its commands and then its delay (R124 to R130, R166, R167). -/
theorem expand_eq_requestCommands (p : Params) {i : Instr} (hr : i.isRequest = true) (hi : i ≠ .init) :
    expand p i = (requestCommands p i).flatMap (expand p) ++ requestDelay p i := by
  cases i with
  | init => exact absurd rfl hi
  | setDisplayMode mode => exact (modeCommands_events p mode).symm.trans (List.append_nil _).symm
  | setFill | drawLine | drawDot =>
    simp only [requestCommands, List.flatMap_singleton]
    exact (List.append_nil _).symm
  | drawRect x0 y0 x1 y1 l f use => exact (rectCommands_events p x0 y0 x1 y1 l f use).symm
  | fillScreen c => exact (rectCommands_events p 0 0 Config.xMax Config.yMax c c 1).symm
  | clearScreen => exact (rectCommands_events p 0 0 Config.xMax Config.yMax .black .black 1).symm
  | renderChar x y ch c => exact (charCommands_events p x y ch c).symm.trans (List.append_nil _).symm
  | renderString x y c text => exact (stringCommands_events p x y c text).symm.trans (List.append_nil _).symm
  | _ => cases hr

theorem isCommand_primCommand (x y : Byte) (c : Color) (q : Prim) : isCommand (primCommand x y c q) = true := by
  cases q <;> rfl

theorem isCommand_of_mem_stringCommands {p : Params} {x y : Byte} {c : Color} {text : List Byte} {k : Instr}
    (h : k ∈ stringCommands p x y c text) : isCommand k = true := by
  induction text generalizing x with
  | nil => cases h
  | cons ch text ih =>
    rcases List.mem_append.1 h with h | h
    · obtain ⟨q, -, rfl⟩ := List.mem_map.1 h
      exact isCommand_primCommand x y c q
    · exact ih h

theorem isCommand_of_mem_requestCommands {p : Params} {i k : Instr} (h : k ∈ requestCommands p i) :
    isCommand k = true := by
  cases i with
  | setDisplayMode mode =>
    simp only [requestCommands] at h
    split_ifs at h <;> simp_all [isCommand]
  | renderChar x y ch c =>
    obtain ⟨q, -, rfl⟩ := List.mem_map.1 h
    exact isCommand_primCommand x y c q
  | renderString => exact isCommand_of_mem_stringCommands h
  | setFill | drawLine | drawDot =>
    cases List.mem_singleton.1 h
    rfl
  | drawRect | fillScreen | clearScreen =>
    rcases List.mem_pair.1 h with rfl | rfl <;> rfl
  | _ => cases h

/-- A controller command by itself emits its events (R79, log entry 5). -/
theorem exec_command {k : Instr} (h : isCommand k = true) (s : State) :
    exec k s = .next (s.emitAll (expand Config.params k)) := by
  cases k <;> first | (cases h; done) | rfl

/-- Commands executed one after another emit their events in order (R79, log entry 5). -/
theorem execAll_commands {ks : List Instr} (h : ∀ k ∈ ks, isCommand k = true) (s : State) :
    execAll ks s = .next (s.emitAll (ks.flatMap (expand Config.params))) := by
  induction ks generalizing s with
  | nil => rfl
  | cons k ks ih =>
    rw [List.forall_mem_cons] at h
    rw [execAll, exec_command h.1, List.flatMap_cons, State.emitAll_append]
    exact ih h.2 _

/-- The delay of a request drives no line (R22, R28). -/
theorem applyAll_requestDelay (p : Params) (i : Instr) (L : Lines) : L.applyAll (requestDelay p i) = L := by
  cases i <;> rfl

/-- Settles O35: the events accepted are those of the commands and the delay, and a run emits them all in order. -/
theorem completedRequestIsItsCommandsInOrder : Obligations.CompletedRequestIsItsCommandsInOrder := by
  intro i s hr hi hs
  refine ⟨_, _, _, exec_request hr s, requestInFlightRunsToCompletion (s.accept i _) hs rfl,
    execAll_commands (fun _ hk => isCommand_of_mem_requestCommands hk) s, ?_⟩
  rw [State.emitAll_eq, State.accept_pend, expand_eq_requestCommands _ hr hi]
  refine ⟨?lines, ?trace, rfl, ?initDone⟩
  case lines => simp [applyAll_requestDelay]
  case trace => simp
  case initDone => simp [hi]

end Sys2Proof.Machine

/-!
Proofs: host accesses (O5, O42), and the wire view of an idle engine's trace (O47).
-/

namespace Sys2Proof.Machine

/-! ## Host accesses -/

/-- A host read returns the port's value and moves the schedule on (R59, R70). -/
theorem step_read {s : State} {q : Port} {rest : List Act} (h : s.sched = .read q :: rest) :
    step s = .next { s with sched := rest, hostSeen := s.hostSeen ++ [s.portValue q] } := by
  simp only [step, State.takeNext, h, State.hostRead]
  rfl

/-- A host write to STATUS does nothing but move the schedule on (R70). -/
theorem step_writeStatus {s : State} {v : Byte} {rest : List Act} (h : s.sched = .write .status v :: rest) :
    step s = .next { s with sched := rest } := by
  simp only [step, State.takeNext, h, State.hostWrite]

/-- Settles O5: one step lemma for the reads, whose values are those of the two ports, and one for the write. -/
theorem hostReadsAndStatusWritesChangeNothing : Obligations.HostReadsAndStatusWritesChangeNothing :=
  fun _ _ => ⟨step_read, step_read, fun _ => step_writeStatus⟩

/-- A REQ write while a request runs is ignored or raises BUSYWR (R74, R202). -/
theorem WriteReq.eq_or_busywr {s t : State} {v : Byte} (w : WriteReq s v t) (hb : s.busy = true) :
    t = s ∨ t = s.raise .busywr := by
  cases w with
  | ignored => exact .inl rfl
  | busywr => exact .inr rfl
  | uninit _ hb' | badreq _ _ hb' | accepted _ _ hb' | stored _ _ hb' => cases hb.symm.trans hb'

/-- Settles O42, by the case of the step: a read and a STATUS write change nothing of the PDCE, and a REQ write does at
most what raising a fault does. -/
theorem hostCannotTouchTheRequestInFlight : Obligations.HostCannotTouchTheRequestInFlight := by
  intro s t a rest hs hseq hreset hb h
  have hhead : s.sched.head? = some a := by rw [hs, List.head?_cons]
  cases step_cases h with
  | seq hturn =>
    rcases hturn with hnil | hturn
    · cases hnil.symm.trans hs
    · exact absurd (Option.some.inj (hhead.symm.trans hturn)) hseq
  | writeReq v _ _ w =>
    rcases w.eq_or_busywr hb with rfl | rfl <;> exact ⟨hb, rfl, rfl, rfl, rfl, rfl⟩
  | writeStatus | read => exact ⟨hb, rfl, rfl, rfl, rfl, rfl⟩
  | reset hr => exact absurd (Option.some.inj (hhead.symm.trans hr)) hreset

/-! ## Event lists that latch the same bytes from every line state -/

/-- Whatever the lines are before, the controller latches `ws` from `es` (R104). -/
def Latches (p : Params) (es : List Event) (ws : List WireByte) : Prop := ∀ L, wire p L es = .ok ws

theorem Latches.append {p : Params} {es fs : List Event} {ws vs : List WireByte} (h : Latches p es ws)
    (h' : Latches p fs vs) : Latches p (es ++ fs) (ws ++ vs) := by
  intro L
  rw [wire_append fs (h L), h']
  rfl

theorem Latches.flatMap {α : Type} {p : Params} {f : α → List Event} {g : α → List WireByte} {xs : List α}
    (h : ∀ x ∈ xs, Latches p (f x) (g x)) : Latches p (xs.flatMap f) (xs.flatMap g) := by
  induction xs with
  | nil => exact wire_nil p
  | cons x xs ih =>
    rw [List.forall_mem_cons] at h
    exact h.1.append (ih h.2)

/-- Events none of which sets chip-select to inactive latch nothing (R104). -/
theorem Latches.of_no_latch {p : Params} {es : List Event} (h : .set .cs (!p.csActive) ∉ es) : Latches p es [] := by
  intro L
  induction es generalizing L with
  | nil => rfl
  | cons ev es ih =>
    rw [List.mem_cons, not_or] at h
    rw [wire_cons_of_no_latch es (isLatch_of_ne (Ne.symm h.1)), ih h.2]

/-! ## One transmission -/

/-- The lowest `n` bits of a number, each at its place, add up to the number modulo `2 ^ n`. -/
theorem sum_testBit (x n : Nat) : ((List.range n).map fun k => (x.testBit k).toNat <<< k).sum = x % 2 ^ n := by
  induction n with
  | zero => simp [Nat.mod_one]
  | succ n ih =>
    rw [List.range_succ, List.map_append, List.sum_append, ih, Nat.mod_pow_succ, ← Nat.toNat_testBit]
    simp [Nat.shiftLeft_eq, Nat.mul_comm]

/-- With the bits of `b` on the data lines, the byte latched is `b` (R104). -/
theorem latchByte_eq {L : Lines} {b : Byte} (h : ∀ k : Fin 8, L.level (.d k) = some (b.getLsbD k)) :
    latchByte L = .ok b := by
  have hbit : latchBit L = fun k : Fin 8 => pure ((b.toNat.testBit k).toNat <<< k.val) := by
    funext k
    simp only [latchBit, h k]
    rfl
  have hsum : ((List.finRange 8).map fun k => (b.toNat.testBit k.val).toNat <<< k.val).sum = b.toNat := by
    have hmod := sum_testBit b.toNat 8
    rw [← List.map_coe_finRange_eq_range, List.map_map, Nat.mod_eq_of_lt b.isLt] at hmod
    exact hmod
  rw [latchByte, hbit, List.mapM_pure]
  exact congrArg Except.ok ((congrArg _ hsum).trans (BitVec.ofNat_toNat ..))

/-- With DC at the level of kind `k`, the kind latched is `k` (R100, R104). -/
theorem latchKind_eq {p : Params} {L : Lines} {k : Kind} (h : L.level .dc = some (dcLevel p k)) :
    latchKind p L = .ok k := by
  cases k <;> simp [latchKind, h, dcLevel]

/-- The events of a transmission before its last, which is the latching edge (R100). -/
def driveEvents (p : Params) (k : Kind) (b : Byte) : List Event := (txEvents p k b).dropLast

theorem txEvents_eq (p : Params) (k : Kind) (b : Byte) :
    txEvents p k b = driveEvents p k b ++ [.set .cs (!p.csActive)] := rfl

theorem level_d_driveEvents (p : Params) (k : Kind) (b : Byte) (L : Lines) (j : Fin 8) :
    (L.applyAll (driveEvents p k b)).level (.d j) = some (b.getLsbD j) := by
  fin_cases j <;> simp [driveEvents, txEvents]

/-- One transmission is latched as its byte and kind (R104). -/
theorem latches_txEvents (p : Params) (k : Kind) (b : Byte) : Latches p (txEvents p k b) [⟨k, b⟩] := by
  have hdrive : Latches p (driveEvents p k b) [] := .of_no_latch (by simp [driveEvents, txEvents])
  intro L
  set M := L.applyAll (driveEvents p k b) with hM
  have hcs : M.level .cs = some p.csActive := by simp [hM, driveEvents, txEvents]
  have hdc : M.level .dc = some (dcLevel p k) := by simp [hM, driveEvents, txEvents]
  have hlatch : latched p M (.set .cs (!p.csActive)) = .ok [⟨k, b⟩] := by
    have hedge : isLatch p M (.set .cs (!p.csActive)) = true := by simp [isLatch, hcs]
    rw [latched, if_pos hedge, latchKind_eq hdc, latchByte_eq (level_d_driveEvents p k b L)]
    rfl
  rw [txEvents_eq, wire_append _ (hdrive L), wire_cons, hlatch]
  rfl

/-! ## Commands and requests -/

/-- A command is latched as its op-code and then its parameters (R120). -/
theorem latches_cmdEvents (p : Params) (op : Byte) (cls : CmdClass) (ps : List Byte) :
    Latches p (cmdEvents p op cls ps) (⟨.cmd, op⟩ :: ps.map (⟨p.pk cls, ·⟩)) := by
  rw [List.map_eq_flatMap]
  exact (latches_txEvents p .cmd op).append (.flatMap fun v _ => latches_txEvents p (p.pk cls) v)

/-- A controller command is latched as its row of R79's table. -/
theorem latches_expand_command (p : Params) {k : Instr} (h : isCommand k = true) :
    Latches p (expand p k) (commandWire p k) := by
  cases k with
  | cmdDisplayOn | cmdRemap | cmdContrastA | cmdContrastB | cmdContrastC | cmdMasterCurrent | cmdFill | cmdRect
  | cmdLine | cmdModeNormalOn | cmdModeNormalOff | cmdModeInverse => exact latches_cmdEvents _ _ _ _
  | _ => cases h

theorem boolByte_eq (v : Byte) : boolByte v = if v = 0x00 then 0x00 else 0x01 := by
  by_cases h : v = 0#8 <;> simp [boolByte, operandTrue, h]

theorem commandWire_primCommand (p : Params) (x y : Byte) (c : Color) (q : Prim) :
    commandWire p (primCommand x y c q) = primWire p x y c q := by
  cases q <;> rfl

theorem charCommands_wire (p : Params) (x y ch : Byte) (c : Color) :
    ((romRead p ch).map (primCommand x y c)).flatMap (commandWire p) = charWire p x y ch c := by
  simp only [List.flatMap_map, commandWire_primCommand, charWire]

theorem stringCommands_wire (p : Params) (x y : Byte) (c : Color) (text : List Byte) :
    (stringCommands p x y c text).flatMap (commandWire p) = stringWire p x y c text := by
  induction text generalizing x with
  | nil => rfl
  | cons ch text ih => rw [stringCommands, List.flatMap_append, charCommands_wire, ih, stringWire]

/-- The wire view of a request other than INIT is that of its commands in order (R124 to R130, R166, R167). -/
theorem requestCommands_wire (p : Params) {i : Instr} (hi : i ≠ .init) :
    (requestCommands p i).flatMap (commandWire p) = requestWire p i := by
  cases i with
  | init => exact absurd rfl hi
  | setDisplayMode mode =>
    simp only [requestCommands, requestWire]
    split_ifs <;> simp_all [commandWire]
  | setFill | drawRect => simp [requestCommands, requestWire, commandWire, boolByte_eq]
  | renderChar x y ch c => exact charCommands_wire p x y ch c
  | renderString x y c text => exact stringCommands_wire p x y c text
  | _ => rfl

/-- A request other than INIT is latched as its wire view (R124 to R130, R166, R167). -/
theorem latches_expand_of_ne_init (p : Params) {i : Instr} (hr : i.isRequest = true) (hi : i ≠ .init) :
    Latches p (expand p i) (requestWire p i) := by
  have hdelay : Latches p (requestDelay p i) [] := .of_no_latch (by cases i <;> simp [requestDelay])
  have hcmds : Latches p ((requestCommands p i).flatMap (expand p)) ((requestCommands p i).flatMap (commandWire p)) :=
    .flatMap fun _ hk => latches_expand_command p (isCommand_of_mem_requestCommands hk)
  rw [expand_eq_requestCommands p hr hi, ← requestCommands_wire p hi]
  simpa using hcmds.append hdelay

/-- INIT is latched as its set-up commands and its clear-screen: nothing else in it drives chip-select (R122). -/
theorem latches_initEvents (p : Params) : Latches p (initEvents p) (requestWire p .init) := by
  have hconfigure : Latches p configureEvents [] := .of_no_latch (by simp [configureEvents])
  have hpulse : Latches p (resetPulseEvents p) [] := .of_no_latch (by simp [resetPulseEvents])
  have hen (v : Level) : Latches p [.set .en v] [] := .of_no_latch (by simp)
  have hdelay : Latches p [.delay p.tOn] [] := .of_no_latch (by simp)
  have hcommand (k : Instr) (h : isCommand k = true) : Latches p (expand p k) (commandWire p k) :=
    latches_expand_command p h
  have hclear : Latches p (clearScreenEvents p) (requestWire p .clearScreen) :=
    latches_expand_of_ne_init p (i := .clearScreen) rfl (by simp)
  exact hconfigure.append (hen (!p.enOn)) |>.append hpulse
    |>.append (hcommand .cmdDisplayOn rfl) |>.append hdelay
    |>.append (hcommand .cmdRemap rfl) |>.append (hcommand .cmdContrastA rfl) |>.append (hcommand .cmdContrastB rfl)
    |>.append (hcommand .cmdContrastC rfl) |>.append (hcommand .cmdMasterCurrent rfl)
    |>.append hclear |>.append (hen p.enOn)

/-- Every request is latched as its wire view (R104). -/
theorem latches_expand_request (p : Params) {i : Instr} (hr : i.isRequest = true) :
    Latches p (expand p i) (requestWire p i) := by
  by_cases hi : i = .init
  · subst hi
    exact latches_initEvents p
  · exact latches_expand_of_ne_init p hr hi

/-- Everything emitted or pending is latched as the wire views of the requests accepted, in order (R58, R60, R104). -/
theorem State.History.latches {s : State} {rs : List Instr} (h : s.History rs) :
    Latches Config.params (s.trace ++ s.pend) (rs.flatMap (requestWire Config.params)) := by
  rw [h.events]
  exact .flatMap fun r hr => latches_expand_request _ (h.requests r hr).1

/-- Settles O47: with nothing pending, the trace is the event lists of the requests accepted. -/
theorem idleTraceIsTheRequestsWireViewsInOrder : Obligations.IdleTraceIsTheRequestsWireViewsInOrder := by
  intro s h hb
  obtain ⟨rs, hrs⟩ := h.history
  have hlatch := hrs.latches
  rw [(h.idle hb).1, List.append_nil] at hlatch
  exact ⟨rs, hrs, hlatch _⟩

end Sys2Proof.Machine

/-!
Proofs: encoding and decoding are inverse on whole frames, whose length is R74's `flen` (O10, O11, O12, O9).
-/

namespace Sys2Proof.Machine

/-! ## Decoding and encoding are inverse -/

/-- A code above 0x0A is a reserved code, whichever it is (R76). -/
theorem decodeOperands_reservedHigh {code : Byte} (h : 0x0B ≤ code.toNat) :
    decodeOperands code [] = some (.reservedHigh code) := by
  generalize hops : ([] : List Byte) = ops
  fun_cases decodeOperands code ops
  case case24 => rfl
  all_goals simp_all

/-- The frame of a well-formed instruction decodes to it (R71 to R76). -/
theorem decode_encode {i : Instr} {w : List Byte} (hwf : i.wellFormed = true) (he : encode i = some w) :
    decode w = .ok i := by
  cases i with
  | init | setDisplayMode | setFill | drawRect | drawLine | drawDot | fillScreen | clearScreen | renderChar
  | reservedZero =>
    cases he
    rfl
  | renderString x y c text =>
    cases he
    have hlen : text.length ≤ 255 := of_decide_eq_true hwf
    have hbyte : text.length = (BitVec.ofNat 8 text.length).toNat := by
      rw [BitVec.toNat_ofNat]
      omega
    exact decode_ok.2 (if_pos hbyte)
  | reservedHigh code =>
    cases he
    exact decode_ok.2 (decodeOperands_reservedHigh (of_decide_eq_true hwf))
  | _ => cases he

/-- Operands that a layout reads are the operands of the frame of what it reads (R73, R76). -/
theorem encode_of_decodeOperands {code : Byte} {ops : List Byte} {i : Instr}
    (h : decodeOperands code ops = some i) : encode i = some (code :: ops) := by
  have hcode : code = BitVec.ofNat 8 code.toNat := (BitVec.ofNat_toNat 8 code).symm
  revert h
  fun_cases decodeOperands code ops
  -- RENDER_STRING writes the length of its text, which is its length byte
  case case21 hk _ _ _ _ _ n text hlen =>
    rintro ⟨⟩
    rw [hcode, hk, encode, hlen, BitVec.ofNat_toNat, BitVec.setWidth_eq]
    rfl
  -- a reserved code above 0x0A writes itself
  case case24 =>
    rintro ⟨⟩
    rfl
  -- any other layout fixes the code and reads its operands in order
  all_goals rintro ⟨⟩
  all_goals
    rw [hcode, ‹code.toNat = _›]
    rfl

/-- Bytes that decode are the frame of what they decode to (R71 to R76). -/
theorem encode_of_decode {w : List Byte} {i : Instr} (h : decode w = .ok i) : encode i = some w := by
  cases w with
  | nil => cases h
  | cons code ops => exact encode_of_decodeOperands (decode_ok.1 h)

theorem isReserved_iff {i : Instr} : i.isReserved = true ↔ i = .reservedZero ∨ ∃ code, i = .reservedHigh code := by
  cases i <;> simp [Instr.isReserved]

/-- The frame of a well-formed instruction is as long as R74's `flen` says (R72, R78). -/
theorem frameLen_encode (i : Instr) : Laws.FrameLength.Statement i := by
  open Laws.FrameLength in
  cases i
  exacts [init, setDisplayMode _, setFill _, drawRect _ _ _ _ _ _ _, drawLine _ _ _ _ _, drawDot _ _ _, fillScreen _,
    clearScreen, renderChar _ _ _ _, renderString _ _ _ _, reservedZero, reservedHigh _, cmdDisplayOn, cmdRemap,
    cmdContrastA, cmdContrastB, cmdContrastC, cmdMasterCurrent, cmdFill _, cmdRect _ _ _ _ _ _, cmdLine _ _ _ _ _,
    cmdModeNormalOn, cmdModeNormalOff, cmdModeInverse, tx _ _]

/-- Bytes that decode are as many as R74's `flen` says. -/
theorem frameLen_of_decode {w : List Byte} {i : Instr} (h : decode w = .ok i) : frameLen w = some w.length :=
  frameLen_encode i (decode_wellFormed h) w (encode_of_decode h)

theorem isRequestCode_iff {v : Byte} : isRequestCode v = true ↔ 1 ≤ v.toNat ∧ v.toNat ≤ 10 := by
  simp [isRequestCode]

/-- The frame of a reserved code is the code alone, which is no request code (R72, R76). -/
theorem decode_reserved {w : List Byte} {i : Instr} (h : decode w = .ok i) (hr : i.isReserved = true) :
    ∃ v, w = [v] ∧ isRequestCode v = false := by
  have henc := encode_of_decode h
  have hwf := decode_wellFormed h
  obtain rfl | ⟨code, rfl⟩ := isReserved_iff.1 hr
  · cases henc
    exact ⟨_, rfl, rfl⟩
  · cases henc
    have hcode : 11 ≤ code.toNat := of_decide_eq_true hwf
    refine ⟨code, rfl, ?_⟩
    rw [Bool.eq_false_iff, Ne, isRequestCode_iff]
    omega

/-- A frame that begins with a request code is a request's, INIT's only if the code is 0x01 (R72). -/
theorem decode_request {v : Byte} {ops : List Byte} {i : Instr} (h : decode (v :: ops) = .ok i)
    (hv : isRequestCode v = true) : i.isRequest = true ∧ (i = .init → v = 0x01) := by
  refine ⟨(decode_kind h).resolve_right fun hr => ?_, ?_⟩
  · obtain ⟨u, hu, hnot⟩ := decode_reserved h hr
    cases hu
    cases hv.symm.trans hnot
  · rintro rfl
    cases encode_of_decode h
    rfl

/-- Settles O10: the round trip from an instruction to its frame and back. -/
theorem decodeOfEncodeIsTheInstruction : Obligations.DecodeOfEncodeIsTheInstruction := fun _ _ => decode_encode

/-- Settles O11: the other direction of the round trip. -/
theorem encodeOfDecodeIsTheFrame : Obligations.EncodeOfDecodeIsTheFrame := fun _ _ h =>
  ⟨encode_of_decode h, decode_wellFormed h, (decode_kind h).imp_right isReserved_iff.1⟩

/-- Settles O12: bytes that decode are a frame, whose length is `flen`; and the layouts read any operands of the
right number. -/
theorem decodingSucceedsExactlyOnWholeFrames : Obligations.DecodingSucceedsExactlyOnWholeFrames :=
  fun _ => ⟨fun ⟨_, h⟩ => frameLen_of_decode h, decode_of_frameLen⟩

/-- Settles O9: each whole frame is that of its instruction; the last one ends before its operands do. -/
theorem writtenOutFramesDecode : Obligations.WrittenOutFramesDecode := by
  refine ⟨?_, ?_, ?_, ?_, ?_, ?_, ?_, ?_, ?_, ?_, ?_, ?_, ?incomplete⟩
  case incomplete => exact decode_incomplete.2 ⟨rfl, rfl⟩
  all_goals exact decode_encode rfl rfl

end Sys2Proof.Machine

/-!
Proofs: what a host write to REQ does (O7, O6, O30), a frame written byte by byte (O8), and a frame loaded from a word
of the opcode table (O52).
-/

namespace Sys2Proof.Machine

/-! ## A host write to REQ -/

/-- A step that takes a REQ write comes to one of the outcomes of that write (R70, R74). -/
theorem step_writeReq {s : State} {v : Byte} {rest : List Act} (h : s.sched = .write .req v :: rest) :
    ∃ t, WriteReq { s with sched := rest } v t ∧ step s = .next t := by
  obtain ⟨t, c, e⟩ := step_spec s
  rw [← List.tail_cons (a := Act.write .req v) (as := rest), ← h]
  cases c with
  | seq h' => simp [h] at h'
  | writeStatus _ h' | read _ h' | reset h' => simp [h] at h'
  | writeReq u t h' w =>
    obtain rfl : v = u := by simpa [h] using h'
    exact ⟨t, w, e⟩

/-- What R74 asks of `init_done` before the frame of `i` is begun (R200). -/
def State.MayBegin (s : State) (i : Instr) : Prop := i.isRequest = true → i = .init ∨ s.initDone = true

/-- The frame of an instruction that may begin raises no UNINIT (R74, R200). -/
theorem State.MayBegin.initDone {s : State} {v : Byte} {ops : List Byte} {i : Instr} (h : s.MayBegin i)
    (hd : decode (v :: ops) = .ok i) (hv : isRequestCode v = true) (h1 : v ≠ 0x01) : s.initDone = true := by
  obtain ⟨hr, hinit⟩ := decode_request hd hv
  exact (h hr).resolve_left fun hi => h1 (hinit hi)

/-- The write that completes a frame is `exec` of the instruction (R74). -/
theorem step_run {s : State} {v : Byte} {rest : List Act} {i : Instr} (hs : s.sched = .write .req v :: rest)
    (hf : s.fault = false) (hb : s.busy = false) (hd : decode (s.rx ++ [v]) = .ok i)
    (hbegin : s.rx = [] → s.MayBegin i) : step s = exec i { s with sched := rest } := by
  obtain ⟨t, w, ht⟩ := step_writeReq hs
  rw [ht]
  cases w with
  | ignored hf' => cases hf.symm.trans hf'
  | busywr _ hb' => cases hb.symm.trans hb'
  | uninit _ _ hx hv h1 hi =>
    have hx : s.rx = [] := hx
    rw [hx, List.nil_append] at hd
    cases ((hbegin hx).initDone hd hv h1).symm.trans hi
  | badreq j _ _ hd' hr =>
    cases hd.symm.trans hd'
    exact (exec_reserved hr _).symm
  | accepted j _ _ hd' hr =>
    cases hd.symm.trans hd'
    exact (exec_request hr _).symm
  | stored e _ _ hd' => cases hd.symm.trans hd'

/-- A write that completes no frame stores its byte, unless it is one for which INIT must be done first (R74). -/
theorem step_store {s : State} {v : Byte} {rest : List Act} (hs : s.sched = .write .req v :: rest)
    (hf : s.fault = false) (hb : s.busy = false) (hlen : frameLen (s.rx ++ [v]) ≠ some (s.rx ++ [v]).length)
    (hbegin : s.rx = [] → isRequestCode v = true → v ≠ 0x01 → s.initDone = true) :
    step s = .next { s with sched := rest, rx := s.rx ++ [v] } := by
  obtain ⟨t, w, ht⟩ := step_writeReq hs
  cases w with
  | ignored hf' => cases hf.symm.trans hf'
  | busywr _ hb' => cases hb.symm.trans hb'
  | uninit _ _ hx hv h1 hi => cases (hbegin hx hv h1).symm.trans hi
  | badreq _ _ _ hd | accepted _ _ _ hd => exact absurd (frameLen_of_decode hd) hlen
  | stored => exact ht

/-- A first byte that is no request code raises BADREQ (R76, R200). -/
theorem step_badreq {s : State} {v : Byte} {rest : List Act} (hs : s.sched = .write .req v :: rest)
    (hf : s.fault = false) (hb : s.busy = false) (hx : s.rx = []) (hv : isRequestCode v = false) :
    step s = .next (({ s with sched := rest } : State).raise .badreq) := by
  have hnot {i : Instr} (hd : decode (s.rx ++ [v]) = .ok i) : i.isRequest ≠ true := fun hr => by
    rw [hx, List.nil_append] at hd
    cases (isRequestCode_of_decodeOperands (decode_ok.1 hd) hr).symm.trans hv
  obtain ⟨t, w, ht⟩ := step_writeReq hs
  cases w with
  | ignored hf' => cases hf.symm.trans hf'
  | busywr _ hb' => cases hb.symm.trans hb'
  | uninit _ _ _ hv' => cases hv.symm.trans hv'
  | badreq => exact ht
  | accepted _ _ _ hd hr => exact absurd hr (hnot hd)
  | stored e _ _ hd =>
    have hd : decode (s.rx ++ [v]) = .error e := hd
    rw [hx, List.nil_append] at hd
    cases (isRequestCode_of_decode_error hd).1.symm.trans hv

/-- The first byte of a request other than INIT raises UNINIT before INIT is done (R74, R200). -/
theorem step_uninit {s : State} {v : Byte} {rest : List Act} (hs : s.sched = .write .req v :: rest)
    (hf : s.fault = false) (hb : s.busy = false) (hx : s.rx = []) (hv : isRequestCode v = true) (h1 : v ≠ 0x01)
    (hi : s.initDone = false) : step s = .next (({ s with sched := rest } : State).raise .uninit) := by
  obtain ⟨t, w, ht⟩ := step_writeReq hs
  cases w with
  | ignored hf' => cases hf.symm.trans hf'
  | busywr _ hb' => cases hb.symm.trans hb'
  | uninit => exact ht
  | badreq i _ _ hd hr =>
    obtain ⟨u, hu, hnot⟩ := decode_reserved hd hr
    have hu : s.rx ++ [v] = [u] := hu
    rw [hx, List.nil_append] at hu
    cases hu
    cases hv.symm.trans hnot
  | accepted _ _ _ _ _ hg | stored _ _ _ _ hg => cases (hg hx hv h1).symm.trans hi

theorem step_faulted {s : State} {v : Byte} {rest : List Act} (hs : s.sched = .write .req v :: rest)
    (hf : s.fault = true) : step s = .next { s with sched := rest } := by
  obtain ⟨t, w, ht⟩ := step_writeReq hs
  cases w with
  | ignored => exact ht
  | busywr hf' | uninit hf' | badreq _ hf' | accepted _ hf' | stored _ hf' => cases hf.symm.trans hf'

theorem step_busywr {s : State} {v : Byte} {rest : List Act} (hs : s.sched = .write .req v :: rest)
    (hf : s.fault = false) (hb : s.busy = true) :
    step s = .next (({ s with sched := rest } : State).raise .busywr) := by
  obtain ⟨t, w, ht⟩ := step_writeReq hs
  cases w with
  | ignored hf' => cases hf.symm.trans hf'
  | busywr => exact ht
  | uninit _ hb' | badreq _ _ hb' | accepted _ _ hb' | stored _ _ hb' => cases hb.symm.trans hb'

/-- A frame that ends at `v`, and that the host may have begun, is a request's (R72, R76). -/
theorem isRequest_of_decode_append {x : List Byte} {v : Byte} {i : Instr} (hd : decode (x ++ [v]) = .ok i)
    (hv : x = [] → isRequestCode v = true) : i.isRequest = true := by
  refine (decode_kind hd).resolve_right fun hr => ?_
  obtain ⟨u, hu, hnot⟩ := decode_reserved hd hr
  obtain ⟨rfl, rfl⟩ : x = [] ∧ v = u := by simpa [List.append_eq_singleton_iff] using hu
  cases (hv rfl).symm.trans hnot

/-- Settles O7, by the inversion of a REQ write. -/
theorem stepRunsTheDecodedInstruction : Obligations.StepRunsTheDecodedInstruction := fun _ _ _ _ => step_run

/-- Settles O6, one step lemma for each outcome of the write. -/
theorem reqWriteFollowsTheAcceptanceRule : Obligations.ReqWriteFollowsTheAcceptanceRule := by
  intro s v rest hs
  refine ⟨step_faulted hs, step_busywr hs, fun hf hb => ⟨fun hx hv => ?badreq, fun hx hv hi => ?uninit,
    fun hbegin => ⟨fun hlen => ?accepted, fun hlen => ?stored⟩⟩⟩
  case badreq =>
    exact step_badreq hs hf hb hx (Bool.eq_false_iff.2 fun h => hv (isRequestCode_iff.1 h))
  case uninit =>
    have h1 : v ≠ 0x01 := by
      rintro rfl
      exact absurd hv.1 (by decide)
    exact step_uninit hs hf hb hx (isRequestCode_iff.2 ⟨by omega, hv.2⟩) h1 hi
  case accepted =>
    obtain ⟨i, hd⟩ := decode_of_frameLen hlen
    have hcode (hx : s.rx = []) : isRequestCode v = true := by
      rcases hbegin hx with rfl | ⟨hv, -⟩
      · rfl
      · exact isRequestCode_iff.2 ⟨by omega, hv.2⟩
    have hr : i.isRequest = true := isRequest_of_decode_append hd hcode
    refine ⟨i, hd, hr, (step_run hs hf hb hd fun hx _ => ?_).trans (exec_request hr _)⟩
    rw [hx, List.nil_append] at hd
    rcases hbegin hx with rfl | ⟨-, hi⟩
    · cases hd
      exact .inl rfl
    · exact .inr hi
  case stored =>
    exact step_store hs hf hb hlen fun hx _ h1 => ((hbegin hx).resolve_left h1).2

/-! ## Writing a whole frame -/

/-- A decoded instruction discards the frame, so what `rx` held does not matter to it (R74, R201). -/
theorem exec_rx {w : List Byte} {i : Instr} (hd : decode w = .ok i) (s : State) (x : List Byte) :
    exec i { s with rx := x } = exec i s := by
  rcases decode_kind hd with hr | hr
  · rw [exec_request hr, exec_request hr]
    rfl
  · rw [exec_reserved hr, exec_reserved hr]
    rfl

/-- Bytes that end before a frame's end are no whole frame (R74). -/
theorem frameLen_ne_of_decode_append {x y : List Byte} {i : Instr} (hd : decode (x ++ y) = .ok i) (hy : y ≠ []) :
    frameLen x ≠ some x.length := by
  intro hx
  have hlen := (frameLen_append hx y).symm.trans (frameLen_of_decode hd)
  simp [hy] at hlen

/-- Writing the bytes that are left of a frame runs its instruction: all but the last are stored (R74). -/
theorem run_rest_of_frame {i : Instr} (vs : List Byte) {s : State} {rest : List Act} (hvs : vs ≠ [])
    (hd : decode (s.rx ++ vs) = .ok i) (hf : s.fault = false) (hb : s.busy = false)
    (hbegin : s.rx = [] → s.MayBegin i) (hs : s.sched = vs.map (.write .req) ++ rest) :
    run vs.length s = exec i { s with sched := rest } := by
  induction vs generalizing s with
  | nil => exact absurd rfl hvs
  | cons v vs ih =>
    rw [List.map_cons, List.cons_append] at hs
    by_cases hlast : vs = []
    · subst hlast
      obtain ⟨t, ht⟩ := exec_next i { s with sched := rest }
      have hstep := (step_run hs hf hb hd hbegin).trans ht
      rw [ht, List.length_singleton, run_succ 0 hstep, run_zero]
    · rw [List.append_cons] at hd
      have hstep := step_store hs hf hb (frameLen_ne_of_decode_append hd hlast) fun hx hv h1 =>
        (hbegin hx).initDone (by simpa [hx] using hd) hv h1
      have hrest := ih (s := { s with sched := vs.map (.write .req) ++ rest, rx := s.rx ++ [v] }) hlast hd hf hb
        (fun hx => absurd hx (List.concat_ne_nil v s.rx)) rfl
      rw [List.length_cons, run_succ _ hstep, hrest]
      exact exec_rx hd { s with sched := rest } (s.rx ++ [v])

/-- Settles O8, by induction over the bytes still to write. -/
theorem writingAFrameRunsItsInstruction : Obligations.WritingAFrameRunsItsInstruction := by
  intro s i w rest hwf he hf hb hx hbegin hs
  have hd : decode w = .ok i := decode_encode hwf he
  refine run_rest_of_frame w ?_ (by rwa [hx]) hf hb (fun _ => hbegin) hs
  rintro rfl
  cases hd

/-- Settles O30: BADREQ by `exec`, and by the port for a first byte that is no request code. -/
theorem reservedCodesRaiseBadreq : Obligations.ReservedCodesRaiseBadreq := by
  refine ⟨exec_reserved rfl, fun _ => exec_reserved rfl, fun s v rest hv hs hf hb hx => ?_⟩
  have hcode : isRequestCode v = false := by
    rw [Bool.eq_false_iff, Ne, isRequestCode_iff]
    rcases hv with rfl | hv
    · decide
    · omega
  rw [step_badreq hs hf hb hx hcode, State.raise, ← hx]
  rfl

/-! ## A word of the opcode table -/

/-- As many bytes as the code at 0, or the length byte at 6 of a RENDER_STRING, asks for have that frame length. -/
theorem frameLen_map_range {g : Nat → Byte} {n : Nat}
    (hn : n = if g 0 = 0x0A then 7 + (g 6).toNat else fixedLen (g 0)) :
    frameLen ((List.range n).map g) = some n := by
  have hpos : 0 < n := by
    have := (fixedLen_bounds (g 0)).1
    split at hn <;> omega
  obtain ⟨m, rfl⟩ := Nat.exists_eq_add_of_lt hpos
  rw [Nat.zero_add, List.range_succ_eq_map, List.map_cons, List.map_map]
  by_cases hc : g 0 = 0x0A
  · rw [if_pos hc] at hn
    rw [hc, frameLen_renderString, List.getElem?_map, List.getElem?_range (by omega)]
    exact congrArg some (show 7 + (g 6).toNat = m + 1 by omega)
  · rw [if_neg hc] at hn
    rw [frameLen_of_ne _ hc, ← hn, Nat.zero_add]

/-- The frame of a word is as long as R74's `flen` says. -/
theorem frameLen_frameOfWord (nbits w : Nat) :
    frameLen (frameOfWord nbits w) = some (frameOfWord nbits w).length := by
  rw [frameOfWord, List.length_map, List.length_range]
  exact frameLen_map_range rfl

/-- A frame whose code is INIT's is INIT's (R72). -/
theorem eq_init_of_decode {w : List Byte} {i : Instr} (hd : decode w = .ok i) (hw : w.head? = some 0x01) :
    i = .init := by
  obtain ⟨ops, rfl⟩ := List.head?_eq_some_iff.1 hw
  have hlen := frameLen_of_decode hd
  obtain rfl : ops = [] := by simpa [frameLen, fixedLen] using hlen
  cases hd
  rfl

/-- A whole frame has a last byte. -/
theorem exists_concat_of_decode {w : List Byte} {i : Instr} (hd : decode w = .ok i) : ∃ x v, w = x ++ [v] := by
  refine (List.eq_nil_or_concat' w).resolve_left ?_
  rintro rfl
  cases hd

/-- The state that a frame ending in `v` is loaded into, the host's write of `v` coming next (log entry 6). -/
theorem State.loadFrame_concat (s : State) (x : List Byte) (v : Byte) :
    s.loadFrame (x ++ [v]) = { s with
      rx := x
      sched := .write .req v :: s.sched
      fault := false
      fcause := 0
      busy := false
      cur := none
      pend := []
      initDone := if (x ++ [v]).head? = some 0x01 then s.initDone else true } := by
  simp [State.loadFrame]

/-- The step after a frame is loaded is `exec` of what it decodes to (log entry 6). -/
theorem step_loadFrame {w : List Byte} {i : Instr} (hd : decode w = .ok i) (s : State) :
    step (s.loadFrame w) = exec i { s.loadFrame w with sched := s.sched } := by
  obtain ⟨x, v, rfl⟩ := exists_concat_of_decode hd
  rw [State.loadFrame_concat]
  refine step_run rfl rfl rfl hd fun _ _ => ?_
  by_cases hhead : (x ++ [v]).head? = some 0x01
  · exact .inl (eq_init_of_decode hd hhead)
  · exact .inr (if_neg hhead)

/-- Settles O52: the word's frame is whole, so it decodes, and loading it makes the next step run it. -/
theorem fetchWordRunsWhatTheTableWordDecodesTo : Obligations.FetchWordRunsWhatTheTableWordDecodesTo := by
  intro s nbits w
  obtain ⟨i, hd⟩ := decode_of_frameLen (frameLen_frameOfWord nbits w)
  refine ⟨i, _, by rw [decodeTableWord, hd], step_loadFrame hd s, ?_⟩
  generalize frameOfWord nbits w = f at hd ⊢
  obtain ⟨x, v, rfl⟩ := exists_concat_of_decode hd
  rw [State.loadFrame_concat, List.dropLast_concat]

end Sys2Proof.Machine

/-!
Proofs: a controller command is the transmissions of its row of R79's table (O16), and where they leave the lines (O17).
-/

namespace Sys2Proof.Machine

/-! ## Transmissions -/

theorem sends_append (p : Params) (ws vs : List WireByte) : sends p (ws ++ vs) = sends p ws ++ sends p vs :=
  List.flatMap_append

theorem sends_singleton (p : Params) (w : WireByte) : sends p [w] = txEvents p w.kind w.byte :=
  List.flatMap_singleton ..

/-- 11 events a byte (R100). -/
theorem sends_length (p : Params) (ws : List WireByte) : (sends p ws).length = 11 * ws.length := by
  simp [sends, List.length_flatMap, Nat.mul_comm]

/-- Transmissions drive DC, CS and the data lines, and configure none (R101). -/
theorem mem_sends {p : Params} {ws : List WireByte} {ev : Event} (h : ev ∈ sends p ws) :
    ∃ l v, ev = .set l v ∧ l ≠ .rst ∧ l ≠ .en := by
  obtain ⟨_, _, h⟩ := List.mem_flatMap.1 h
  exact mem_txEvents h

/-- A command is the transmissions of its op-code and its parameters (R120). -/
theorem cmdEvents_eq_sends (p : Params) (op : Byte) (cls : CmdClass) (ps : List Byte) :
    cmdEvents p op cls ps = sends p (⟨.cmd, op⟩ :: ps.map (⟨p.pk cls, ·⟩)) := by
  simp only [sends, List.flatMap_cons, List.flatMap_map, cmdEvents]

/-- A controller command is the transmissions of its row of R79's table. -/
theorem expand_command (p : Params) {k : Instr} (h : isCommand k = true) :
    expand p k = sends p (commandWire p k) := by
  cases k with
  | cmdDisplayOn | cmdRemap | cmdContrastA | cmdContrastB | cmdContrastC | cmdMasterCurrent | cmdFill | cmdRect
  | cmdLine | cmdModeNormalOn | cmdModeNormalOff | cmdModeInverse => exact cmdEvents_eq_sends _ _ _ _
  | _ => cases h

theorem commandWire_ne_nil (p : Params) {k : Instr} (h : isCommand k = true) : commandWire p k ≠ [] := by
  cases k with
  | cmdDisplayOn | cmdRemap | cmdContrastA | cmdContrastB | cmdContrastC | cmdMasterCurrent | cmdFill | cmdRect
  | cmdLine | cmdModeNormalOn | cmdModeNormalOff | cmdModeInverse => exact List.cons_ne_nil _ _
  | _ => cases h

/-- A controller command by itself emits the transmissions of its row of R79's table (log entry 5). -/
theorem exec_command_sends {k : Instr} (h : isCommand k = true) (s : State) :
    exec k s = .next (s.emitAll (sends Config.params (commandWire Config.params k))) := by
  rw [exec_command h, expand_command _ h]

/-- Settles O16: the command emits the transmissions of its row, and the controller latches what was sent. -/
theorem commandsTransmitTheirTableRow : Obligations.CommandsTransmitTheirTableRow := by
  intro i s L hi
  refine ⟨_, exec_command_sends hi s, ?_⟩
  rw [State.emitAll_eq]
  refine ⟨rfl, rfl, rfl, ?wire, sends_length _ _⟩
  case wire =>
    rw [← expand_command _ hi]
    exact latches_expand_command _ hi L

/-! ## The lines after events -/

/-- Events that configure no line leave every configuration bit (R22). -/
theorem isOut_applyAll {es : List Event} (h : ∀ l, .cfgOut l ∉ es) (L : Lines) (k : Line) :
    (L.applyAll es).isOut k = L.isOut k := by
  induction es generalizing L with
  | nil => rfl
  | cons ev es ih =>
    simp only [List.mem_cons, not_or] at h
    rw [Lines.applyAll_cons, ih fun l => (h l).2]
    cases ev with
    | cfgOut l => exact absurd rfl (h l).1
    | set l v => exact Lines.isOut_set L l k v
    | delay d => rw [Lines.apply_delay]

/-- Events that do not set a line leave its level (R22). -/
theorem level_applyAll {es : List Event} {k : Line} (h : ∀ v, .set k v ∉ es) (L : Lines) :
    (L.applyAll es).level k = L.level k := by
  induction es generalizing L with
  | nil => rfl
  | cons ev es ih =>
    simp only [List.mem_cons, not_or] at h
    rw [Lines.applyAll_cons, ih fun v => (h v).2]
    cases ev with
    | cfgOut l => exact Lines.level_cfgOut L l k
    | set l v =>
      have hne : k ≠ l := by
        rintro rfl
        exact (h v).1 rfl
      rw [Lines.level_set, if_neg hne]
    | delay d => rw [Lines.apply_delay]

theorem isOut_applyAll_sends (p : Params) (ws : List WireByte) (L : Lines) (k : Line) :
    (L.applyAll (sends p ws)).isOut k = L.isOut k :=
  isOut_applyAll (fun l h => by obtain ⟨_, _, ⟨⟩, -⟩ := mem_sends h) L k

/-- Transmissions leave RST and EN as they were (R101). -/
theorem level_applyAll_sends (p : Params) (ws : List WireByte) (L : Lines) {k : Line} (hk : k = .rst ∨ k = .en) :
    (L.applyAll (sends p ws)).level k = L.level k := by
  refine level_applyAll (fun v h => ?_) L
  obtain ⟨_, _, ⟨⟩, hrst, hen⟩ := mem_sends h
  exact hk.elim hrst hen

/-- A transmission leaves chip-select inactive, and DC and the data lines at its kind and its byte (R102). -/
theorem level_applyAll_txEvents (p : Params) (k : Kind) (b : Byte) (L : Lines) :
    (L.applyAll (txEvents p k b)).level .cs = some (!p.csActive) ∧
    (L.applyAll (txEvents p k b)).level .dc = some (dcLevel p k) ∧
    ∀ j : Fin 8, (L.applyAll (txEvents p k b)).level (.d j) = some (b.getLsbD j) := by
  rw [txEvents_eq, Lines.applyAll_append, Lines.applyAll_cons, Lines.applyAll_nil]
  refine ⟨by simp, by simp [driveEvents, txEvents], fun j => ?_⟩
  rw [Lines.level_set, if_neg (by simp)]
  exact level_d_driveEvents p k b L j

/-- Settles O17: the last transmission fixes the bus, and none of them touches the other lines. -/
theorem commandsLeaveTheBusAtTheirLastByte : Obligations.CommandsLeaveTheBusAtTheirLastByte := by
  intro i s hi
  obtain ⟨w, hw⟩ := Option.ne_none_iff_exists'.1
    (mt List.getLast?_eq_none_iff.1 (commandWire_ne_nil Config.params hi))
  refine ⟨_, w, exec_command_sends hi s, hw, ?_⟩
  rw [State.emitAll_eq]
  refine ⟨isOut_applyAll_sends _ _ _, level_applyAll_sends _ _ _ (.inl rfl), level_applyAll_sends _ _ _ (.inr rfl),
    ?_⟩
  obtain ⟨ws, hws⟩ := List.getLast?_eq_some_iff.1 hw
  rw [hws, sends_append, sends_singleton, Lines.applyAll_append]
  exact level_applyAll_txEvents _ _ _ _

end Sys2Proof.Machine

/-!
Proofs: the bus transport. One transmission and where it leaves the lines (O14), what the controller latches from
transmissions (O15) and from a trace in the middle of a request (O48), and that no event and no step reads a line (O43).
-/

namespace Sys2Proof.Machine

/-! ## Transmissions and latches -/

/-- The DC level of a transmission, in the words of R100. -/
theorem dcLevel_eq (p : Params) (k : Kind) : dcLevel p k = if k = .cmd then p.dcCmd else !p.dcCmd := by
  cases k <;> rfl

theorem isOut_applyAll_txEvents (p : Params) (k : Kind) (b : Byte) (L : Lines) (l : Line) :
    (L.applyAll (txEvents p k b)).isOut l = L.isOut l :=
  isOut_applyAll_sends p [⟨k, b⟩] L l

/-- A transmission leaves RST and EN as they were (R102). -/
theorem level_applyAll_txEvents_of_rst_en (p : Params) (k : Kind) (b : Byte) (L : Lines) {l : Line}
    (hl : l = .rst ∨ l = .en) : (L.applyAll (txEvents p k b)).level l = L.level l :=
  level_applyAll_sends p [⟨k, b⟩] L hl

/-- Settles O14: TX is a micro-operation, so `exec` emits its eleven events and does nothing else. -/
theorem txEmitsElevenEventsAndSetsTheBus : Obligations.TxEmitsElevenEventsAndSetsTheBus := by
  intro k b s
  refine ⟨_, exec_micro rfl rfl s, ?_⟩
  obtain ⟨hcs, hdc, hdata⟩ := level_applyAll_txEvents Config.params k b s.lines
  rw [State.emitAll_eq, expand, ← dcLevel_eq]
  exact ⟨rfl, rfl, hcs, hdc, hdata, level_applyAll_txEvents_of_rst_en _ _ _ _ (.inl rfl),
    level_applyAll_txEvents_of_rst_en _ _ _ _ (.inr rfl), isOut_applyAll_txEvents _ _ _ _⟩

/-- Settles O15: each transmission is latched as its own byte, whatever the one before it left on the lines. -/
theorem wireViewOfTransmissionsIsTheirBytes : Obligations.WireViewOfTransmissionsIsTheirBytes := by
  intro p L ws
  have hlatch : Latches p (sends p ws) (ws.flatMap fun w => [w]) := .flatMap fun w _ => latches_txEvents p w.kind w.byte
  rw [hlatch L, List.flatMap_singleton']

/-- Settles O48: what is emitted and what is pending together have a wire view, and the trace is a beginning of it. -/
theorem noLatchReadsAnUnknownLevel : Obligations.NoLatchReadsAnUnknownLevel := by
  intro s h
  obtain ⟨rs, hrs⟩ := h.history
  exact wire_left_ok (hrs.latches Lines.reset)

/-! ## No event reads a line -/

/-- An event keeps a line's configuration bit from every line state, or makes it 1 from every line state (R22). -/
theorem isOut_apply_keeps_or_sets (ev : Event) (k : Line) :
    (∀ L : Lines, (L.apply ev).isOut k = L.isOut k) ∨ ∀ L : Lines, (L.apply ev).isOut k = true := by
  cases ev with
  | cfgOut l =>
    by_cases h : k = l
    · exact .inr fun L => by simp [h]
    · exact .inl fun L => by simp [h]
  | set l v => exact .inl fun L => Lines.isOut_set L l k v
  | delay d => exact .inl fun L => by rw [Lines.apply_delay]

/-- An event keeps a line's level from every line state, or makes it one and the same from every line state (R22). -/
theorem level_apply_keeps_or_sets (ev : Event) (k : Line) :
    (∀ L : Lines, (L.apply ev).level k = L.level k) ∨ ∃ v, ∀ L : Lines, (L.apply ev).level k = some v := by
  cases ev with
  | cfgOut l => exact .inl fun L => Lines.level_cfgOut L l k
  | set l v =>
    by_cases h : k = l
    · exact .inr ⟨v, fun L => by simp [h]⟩
    · exact .inl fun L => by simp [h]
  | delay d => exact .inl fun L => by rw [Lines.apply_delay]

/-! ## No step reads a line -/

/-- A reserved code asks nothing of `init_done`: no request begins with it (R76). -/
theorem State.mayBegin_of_isReserved (s : State) {i : Instr} (hr : i.isReserved = true) : s.MayBegin i := by
  intro hreq
  rcases isReserved_iff.1 hr with rfl | ⟨_, rfl⟩ <;> cases hreq

/-- The inversion `step_writeReq` reversed: a step answers any outcome that R74's conditions allow the REQ write. -/
theorem step_of_writeReq {s t : State} {v : Byte} {rest : List Act} (hs : s.sched = .write .req v :: rest)
    (w : WriteReq { s with sched := rest } v t) : step s = .next t := by
  cases w with
  | ignored hf => exact step_faulted hs hf
  | busywr hf hb => exact step_busywr hs hf hb
  | uninit hf hb hx hc h1 hi => exact step_uninit hs hf hb hx hc h1 hi
  | badreq i hf hb hd hr =>
    exact (step_run hs hf hb hd fun _ => State.mayBegin_of_isReserved s hr).trans (exec_reserved hr _)
  | accepted i hf hb hd hr hg =>
    refine (step_run hs hf hb hd fun hx _ => ?_).trans (exec_request hr _)
    have hd : decode (s.rx ++ [v]) = .ok i := hd
    rw [hx, List.nil_append] at hd
    by_cases h1 : v = 0x01
    · exact .inl (eq_init_of_decode hd (congrArg some h1))
    · exact .inr (hg hx (isRequestCode_of_decodeOperands (decode_ok.1 hd) hr) h1)
  | stored e hf hb hd hg =>
    refine step_store hs hf hb (fun hlen => ?_) hg
    obtain ⟨i, hi⟩ := decode_of_frameLen hlen
    cases hi.symm.trans hd

/-- Engine reset, from any state (R230). -/
theorem step_reset {s : State} {rest : List Act} (h : s.sched = .reset :: rest) :
    step s = .next ({ s with sched := rest } : State).engineReset := by
  simp only [step, State.takeNext, h]

/-- A REQ write reads no line and changes none: with other lines its outcome is the same but for them (R74, R103). -/
theorem WriteReq.withLines {s t : State} {v : Byte} (w : WriteReq s v t) (L : Lines) :
    WriteReq { s with lines := L } v { t with lines := L } := by
  cases w with
  | ignored hf => exact .ignored hf
  | busywr hf hb => exact .busywr hf hb
  | uninit hf hb hx hc h1 hi => exact .uninit hf hb hx hc h1 hi
  | badreq i hf hb hd hr => exact .badreq i hf hb hd hr
  | accepted i hf hb hd hr hg => exact .accepted i hf hb hd hr hg
  | stored e hf hb hd hg => exact .stored e hf hb hd hg

/-- A REQ write emits nothing (R201). -/
theorem WriteReq.lines_trace {s t : State} {v : Byte} (w : WriteReq s v t) :
    t.lines = s.lines ∧ t.trace = s.trace := by
  cases w with
  | ignored | busywr | uninit | badreq | accepted | stored => exact ⟨rfl, rfl⟩

/-- Settles O43: by the case of the step, which with other lines takes the same case again. -/
theorem noStepReadsALine : Obligations.NoStepReadsALine := by
  refine ⟨fun ev k => ⟨isOut_apply_keeps_or_sets ev k, level_apply_keeps_or_sets ev k⟩, fun s L => ?_⟩
  obtain ⟨t, c, ht⟩ := step_spec s
  refine ⟨t, ht, ?_⟩
  have hnext {a : Act} (h : s.sched.head? = some a) : ({ s with lines := L } : State).sched = a :: s.sched.tail :=
    List.eq_cons_of_mem_head? h
  cases c with
  | seq h =>
    rcases seqStep_cases { s with sched := s.sched.tail } with ⟨ev, rest, hp, e⟩ | ⟨hp, hb, -⟩ | ⟨hp, hb, e⟩
    · rw [e]
      exact .inr (.inl ⟨ev, hp, rfl, rfl, step_emit (s := { s with lines := L }) h hp⟩)
    · rw [State.seqStep_complete hp hb]
      exact .inl ⟨rfl, rfl, step_complete (s := { s with lines := L }) h hp hb⟩
    · rw [e]
      exact .inl ⟨rfl, rfl, step_idle (s := { s with lines := L }) h hp hb⟩
  | writeStatus v h => exact .inl ⟨rfl, rfl, step_writeStatus (hnext h)⟩
  | writeReq v _ h w =>
    obtain ⟨hlines, htrace⟩ := w.lines_trace
    exact .inl ⟨hlines, htrace, step_of_writeReq (hnext h) (w.withLines L)⟩
  | read q h => exact .inl ⟨rfl, rfl, step_read (hnext h)⟩
  | reset h => exact .inr (.inr ⟨h, rfl, step_reset (hnext h)⟩)

end Sys2Proof.Machine

/-!
Proofs: the requests of the Command Protocol, each accepted with the transmissions of its wire view and its delay
(O20 to O25), the power-up sequence of INIT (O18, O19), and the panel it leaves (O49).
-/

namespace Sys2Proof.Machine

/-! ## A request other than INIT is transmissions and a delay -/

/-- The events of controller commands are the transmissions of their bytes (R79). -/
theorem commands_events_eq_sends (p : Params) {ks : List Instr} (h : ∀ k ∈ ks, isCommand k = true) :
    ks.flatMap (expand p) = sends p (ks.flatMap (commandWire p)) := by
  induction ks with
  | nil => rfl
  | cons k ks ih =>
    rw [List.forall_mem_cons] at h
    rw [List.flatMap_cons, List.flatMap_cons, sends_append, expand_command p h.1, ih h.2]

/-- The events of a request other than INIT are the transmissions of its wire view and then its delay (R124 to R130,
R166, R167). -/
theorem expand_eq_sends (p : Params) {i : Instr} (hr : i.isRequest = true) (hi : i ≠ .init) :
    expand p i = sends p (requestWire p i) ++ requestDelay p i := by
  rw [expand_eq_requestCommands p hr hi, ← requestCommands_wire p hi,
    commands_events_eq_sends p fun _ hk => isCommand_of_mem_requestCommands hk]

/-- A request other than INIT is accepted with the transmissions of its wire view and its delay, and leaves `init_done`
as it is (R74). -/
theorem exec_request_sends {i : Instr} (hr : i.isRequest = true) (hi : i ≠ .init) (s : State) :
    exec i s = .next { s with
      rx := []
      cur := some i
      busy := true
      pend := sends Config.params (requestWire Config.params i) ++ requestDelay Config.params i } := by
  rw [exec_request hr, expand_eq_sends _ hr hi, State.accept, if_neg hi]

/-- A request without a delay is accepted with transmissions alone (R124, R125, R127). -/
theorem exec_request_sends_of_no_delay {i : Instr} (hr : i.isRequest = true) (hi : i ≠ .init)
    (hd : requestDelay Config.params i = []) (s : State) :
    exec i s = .next { s with
      rx := []
      cur := some i
      busy := true
      pend := sends Config.params (requestWire Config.params i) } := by
  rw [exec_request_sends hr hi, hd, List.append_nil]

/-- Settles O20: SET_DISPLAY_MODE is its wire view, which is empty for a code that is not recognised. -/
theorem setDisplayModeSendsARecognisedCodeOnly : Obligations.SetDisplayModeSendsARecognisedCodeOnly := fun _ s L =>
  ⟨exec_request_sends_of_no_delay rfl (by simp) rfl s, wireViewOfTransmissionsIsTheirBytes _ L _⟩

/-- Settles O21: SET_FILL is the FILL command of its wire view. -/
theorem setFillSendsZeroOrOne : Obligations.SetFillSendsZeroOrOne := fun _ s L =>
  ⟨exec_request_sends_of_no_delay rfl (by simp) rfl s, wireViewOfTransmissionsIsTheirBytes _ L _⟩

/-- Settles O22: DRAW_RECT is the FILL and RECT commands of its wire view and the rectangle's delay, which latches
nothing. -/
theorem drawRectSendsFillThenRectThenWaits : Obligations.DrawRectSendsFillThenRectThenWaits := by
  intro x0 y0 x1 y1 l f use s L
  refine ⟨exec_request_sends rfl (by simp) s, ?wire, ?length⟩
  case wire =>
    have hlatch := latches_expand_of_ne_init Config.params (i := .drawRect x0 y0 x1 y1 l f use) rfl (by simp)
    rw [expand_eq_sends _ rfl (by simp)] at hlatch
    exact hlatch L
  case length => rw [List.length_append, sends_length]; rfl

/-- Settles O23: DRAW_LINE is the LINE command of its wire view, eight bytes of 11 events. -/
theorem drawLineSendsOneLineCommand : Obligations.DrawLineSendsOneLineCommand := fun _ _ _ _ _ s L =>
  ⟨exec_request_sends_of_no_delay rfl (by simp) rfl s, wireViewOfTransmissionsIsTheirBytes _ L _, sends_length _ _⟩

/-- Settles O24: DRAW_DOT and the DRAW_LINE from the point to itself have one wire view. -/
theorem drawDotIsTheLineFromThePointToItself : Obligations.DrawDotIsTheLineFromThePointToItself := fun _ _ _ s L =>
  ⟨_, _, exec_request_sends_of_no_delay rfl (by simp) rfl s, exec_request_sends_of_no_delay rfl (by simp) rfl s, rfl,
    wireViewOfTransmissionsIsTheirBytes _ L _⟩

/-- Settles O25: FILL_SCREEN and the filled DRAW_RECT of the whole screen have one wire view and one delay, and so have
CLEAR_SCREEN and FILL_SCREEN black. -/
theorem fillAndClearScreenAreTheWholeRectangle : Obligations.FillAndClearScreenAreTheWholeRectangle := fun _ s =>
  ⟨_, _, _, _, exec_request_sends rfl (by simp) s, exec_request_sends rfl (by simp) s, rfl,
    exec_request_sends rfl (by simp) s, exec_request_sends rfl (by simp) s, rfl⟩

/-! ## The power-up sequence of INIT -/

/-- The events of INIT before its first transmission: every line configured, display-enable deasserted, the panel reset
pulsed (R122). -/
def initPreamble (p : Params) : List Event := configureEvents ++ [.set .en (!p.enOn)] ++ resetPulseEvents p

/-- INIT is its preamble, display-on and its delay, the other transmissions of its wire view, and the rectangle's delay
with display-enable asserted (R122). -/
theorem initEvents_eq (p : Params) :
    initEvents p = initPreamble p ++ sends p [⟨.cmd, 0xAF⟩] ++ [.delay p.tOn] ++ sends p (requestWire p .init).tail ++
      [.delay p.tRect, .set .en p.enOn] := by
  have hclear : clearScreenEvents p = sends p (requestWire p .clearScreen) ++ [.delay p.tRect] :=
    expand_eq_sends p (i := .clearScreen) rfl (by simp)
  have hwire : (requestWire p .init).tail = commandWire p .cmdRemap ++ commandWire p .cmdContrastA ++
      commandWire p .cmdContrastB ++ commandWire p .cmdContrastC ++ commandWire p .cmdMasterCurrent ++
      requestWire p .clearScreen := rfl
  rw [hwire]
  simp only [initEvents, initPreamble, displayOnEvents, remapEvents, contrastAEvents, contrastBEvents, contrastCEvents,
    masterCurrentEvents, cmdEvents_eq_sends, hclear, sends_append, List.append_assoc]
  rfl

/-- Settles O18: the acceptance of INIT with the power-up sequence. -/
theorem initIsAcceptedWithThePowerUpSequence : Obligations.InitIsAcceptedWithThePowerUpSequence := by
  intro s
  rw [exec_request rfl, State.accept, if_pos rfl, expand, initEvents_eq]
  rfl

/-- The events of INIT besides its transmissions, in order (R123). -/
def initControls (p : Params) : List Event := initPreamble p ++ [.delay p.tOn] ++ [.delay p.tRect, .set .en p.enOn]

/-- None of the events that R123 counts besides the transmissions: a line set, and not of EN or RST. -/
def Event.isBusSet (ev : Event) : Bool := !ev.isCfgOut && !ev.isDelay && !ev.setsLine .en && !ev.setsLine .rst

theorem isCfgOut_of_mem_sends {p : Params} {ws : List WireByte} {ev : Event} (h : ev ∈ sends p ws) :
    ev.isCfgOut = false := by
  obtain ⟨_, _, rfl, -, -⟩ := mem_sends h
  rfl

theorem isDelay_of_mem_sends {p : Params} {ws : List WireByte} {ev : Event} (h : ev ∈ sends p ws) :
    ev.isDelay = false := by
  obtain ⟨_, _, rfl, -, -⟩ := mem_sends h
  rfl

/-- Transmissions set neither RST nor EN (R101). -/
theorem setsLine_of_mem_sends {p : Params} {ws : List WireByte} {ev : Event} {k : Line} (hk : k = .rst ∨ k = .en)
    (h : ev ∈ sends p ws) : ev.setsLine k = false := by
  obtain ⟨l, _, rfl, hrst, hen⟩ := mem_sends h
  refine decide_eq_false ?_
  rintro rfl
  exact hk.elim hrst hen

theorem isBusSet_of_mem_sends {p : Params} {ws : List WireByte} {ev : Event} (h : ev ∈ sends p ws) :
    ev.isBusSet = true := by
  simp [Event.isBusSet, isCfgOut_of_mem_sends h, isDelay_of_mem_sends h, setsLine_of_mem_sends _ h]

/-- The events of INIT that no transmission has are among its controls. -/
theorem filter_initEvents {p : Params} {q : Event → Bool}
    (hq : ∀ (ws : List WireByte), ∀ ev ∈ sends p ws, q ev = false) :
    (initEvents p).filter q = (initControls p).filter q := by
  have hsends (ws : List WireByte) : (sends p ws).filter q = [] := by
    simpa only [List.filter_eq_nil_iff, Bool.not_eq_true] using hq ws
  simp only [initEvents_eq, initControls, List.filter_append, hsends, List.append_nil]

theorem countP_initEvents {p : Params} {q : Event → Bool}
    (hq : ∀ (ws : List WireByte), ∀ ev ∈ sends p ws, q ev = false) :
    (initEvents p).countP q = (initControls p).countP q := by
  rw [List.countP_eq_length_filter, filter_initEvents hq, ← List.countP_eq_length_filter]

/-- What is left of INIT without its controls are the transmissions of its wire view (R123). -/
theorem filter_initEvents_isBusSet (p : Params) :
    (initEvents p).filter Event.isBusSet = sends p (requestWire p .init) := by
  have hsends (ws : List WireByte) : (sends p ws).filter Event.isBusSet = sends p ws :=
    List.filter_eq_self.2 fun _ => isBusSet_of_mem_sends
  have hpreamble : (initPreamble p).filter Event.isBusSet = [] := rfl
  have hwire : requestWire p .init = [⟨.cmd, 0xAF⟩] ++ (requestWire p .init).tail := rfl
  rw [hwire, sends_append, initEvents_eq]
  simp only [List.filter_append, hsends, hpreamble]
  simp [Event.isBusSet, Event.isDelay, Event.setsLine]

theorem length_initPreamble (p : Params) : (initPreamble p).length = 17 := rfl

/-- INIT transmits 24 bytes (R123). -/
theorem length_initWire (p : Params) : (requestWire p .init).length = 24 := rfl

theorem length_initEvents (p : Params) : (initEvents p).length = 284 := by
  simp [initEvents_eq, length_initPreamble, sends_length, length_initWire]

/-- Transmissions have no delay (R100). -/
theorem delaySum_sends (p : Params) (ws : List WireByte) : delaySum (sends p ws) = 0 :=
  delaySum_of_sets fun _ => mem_sends

@[simp] theorem delaySum_cons (ev : Event) (es : List Event) : delaySum (ev :: es) = ev.ms + delaySum es := rfl

theorem delaySum_initPreamble (p : Params) : delaySum (initPreamble p) = 2 * p.tRst := by
  simp [initPreamble, configureEvents, resetPulseEvents, Event.ms, two_mul]

/-- The delays of INIT: one after each edge of the reset pulse, one after display-on, one after the clear (R123). -/
theorem delaySum_initEvents (p : Params) : delaySum (initEvents p) = 2 * p.tRst + p.tOn + p.tRect := by
  simp [initEvents_eq, delaySum_initPreamble, delaySum_sends, Event.ms, Nat.add_assoc]

theorem take_initEvents (p : Params) : (initEvents p).take 17 = initPreamble p := by
  simp only [initEvents_eq, List.append_assoc]
  exact List.take_left' (length_initPreamble p)

theorem latches_initPreamble (p : Params) : Latches p (initPreamble p) [] :=
  .of_no_latch (by simp [initPreamble, configureEvents, resetPulseEvents])

/-- Settles O19: what R123 counts besides the transmissions stands in the controls, and the rest is the wire view. -/
theorem initHasTheSizesOfItsRule : Obligations.InitHasTheSizesOfItsRule := by
  intro L
  have hvalid := Config.params_valid
  refine ⟨length_initEvents _, ?cfgOut, ?en, ?rst, ?countDelay, ?delays, filter_initEvents_isBusSet _,
    length_initWire Config.params, sends_length _ _, latches_initEvents _ L,
    delaySum_initEvents _, ?minDelay, ?preamble, ?last⟩
  case cfgOut => exact (countP_initEvents fun _ _ => isCfgOut_of_mem_sends).trans rfl
  case en => exact (countP_initEvents fun _ _ => setsLine_of_mem_sends (.inr rfl)).trans rfl
  case rst => exact (countP_initEvents fun _ _ => setsLine_of_mem_sends (.inl rfl)).trans rfl
  case countDelay => exact (countP_initEvents fun _ _ => isDelay_of_mem_sends).trans rfl
  case delays => exact (filter_initEvents fun _ _ => isDelay_of_mem_sends).trans rfl
  case minDelay =>
    have htRst := hvalid.tRst_ge
    have htOn := hvalid.tOn_ge
    have htRect := hvalid.tRect_ge
    simp only [expand, delaySum_initEvents]
    omega
  case preamble => rw [expand, take_initEvents, latches_initPreamble]
  case last =>
    rw [expand, initEvents_eq, List.getLast?_append]
    rfl

/-! ## The panel after INIT -/

/-- Every line is an output, display-enable is asserted and the panel reset is high (R133). -/
structure Lines.PanelLive (p : Params) (L : Lines) : Prop where
  isOut : ∀ l, L.isOut l = true
  en : L.level .en = some p.enOn
  rst : L.level .rst = some true

/-- The panel is live and chip-select is inactive, as it is between requests (R133, R234). -/
structure Lines.PanelReady (p : Params) (L : Lines) : Prop extends L.PanelLive p where
  cs : L.level .cs = some (!p.csActive)

/-- A line that is an output stays one (R22). -/
theorem isOut_applyAll_of_isOut {L : Lines} {k : Line} (h : L.isOut k = true) (es : List Event) :
    (L.applyAll es).isOut k = true := by
  induction es generalizing L with
  | nil => exact h
  | cons ev es ih =>
    refine ih ?_
    rcases isOut_apply_keeps_or_sets ev k with hkeep | hset
    · rw [hkeep, h]
    · exact hset L

/-- A line configured by one of the events is an output after them (R22). -/
theorem isOut_applyAll_of_mem {es : List Event} {k : Line} (h : .cfgOut k ∈ es) (L : Lines) :
    (L.applyAll es).isOut k = true := by
  obtain ⟨before, after, rfl⟩ := List.append_of_mem h
  rw [Lines.applyAll_append, Lines.applyAll_cons]
  exact isOut_applyAll_of_isOut (by simp) after

/-- Events that set neither RST nor EN keep the panel live. -/
theorem Lines.PanelLive.applyAll {p : Params} {L : Lines} (h : L.PanelLive p) {es : List Event}
    (hrst : ∀ v, .set .rst v ∉ es) (hen : ∀ v, .set .en v ∉ es) : (L.applyAll es).PanelLive p where
  isOut l := isOut_applyAll_of_isOut (h.isOut l) es
  en := (level_applyAll hen L).trans h.en
  rst := (level_applyAll hrst L).trans h.rst

/-- Transmissions leave chip-select inactive, if there is one or it was inactive before (R102). -/
theorem level_cs_applyAll_sends {p : Params} {ws : List WireByte} {L : Lines}
    (h : ws ≠ [] ∨ L.level .cs = some (!p.csActive)) :
    (L.applyAll (sends p ws)).level .cs = some (!p.csActive) := by
  rcases List.eq_nil_or_concat' ws with rfl | ⟨vs, w, rfl⟩
  · exact h.resolve_left (absurd rfl)
  · rw [sends_append, sends_singleton, Lines.applyAll_append]
    exact (level_applyAll_txEvents _ _ _ _).1

/-- INIT leaves the panel ready, whatever the lines were before (R122, R133). -/
theorem panelReady_applyAll_initEvents (p : Params) (L : Lines) : (L.applyAll (initEvents p)).PanelReady p where
  isOut l := by
    obtain ⟨es, hes⟩ := initEvents_eq_configureEvents_append p
    exact isOut_applyAll_of_mem (hes ▸ List.mem_append_left es (cfgOut_mem_configureEvents l)) L
  en := by simp [initEvents_eq]
  rst := by simp [initEvents_eq, level_applyAll_sends, initPreamble, resetPulseEvents]
  cs := by
    have hwire : (requestWire p .init).tail ≠ [] := List.cons_ne_nil _ _
    simp [initEvents_eq, level_cs_applyAll_sends (.inl hwire)]

/-- A request other than INIT sets neither RST nor EN (R101, R133). -/
theorem set_not_mem_expand {p : Params} {i : Instr} (hr : i.isRequest = true) (hi : i ≠ .init) {k : Line}
    (hk : k = .rst ∨ k = .en) (v : Level) : .set k v ∉ expand p i := by
  rw [expand_eq_sends p hr hi, List.mem_append, not_or]
  refine ⟨fun h => ?_, by cases i <;> simp [requestDelay]⟩
  obtain ⟨_, _, ⟨⟩, hrst, hen⟩ := mem_sends h
  exact hk.elim hrst hen

/-- A request leaves the panel ready if it is INIT or finds it ready (R133). -/
theorem panelReady_applyAll_expand {p : Params} {i : Instr} {L : Lines} (hr : i.isRequest = true)
    (h : i = .init ∨ L.PanelReady p) : (L.applyAll (expand p i)).PanelReady p := by
  by_cases hi : i = .init
  · subst hi
    exact panelReady_applyAll_initEvents p L
  · have hready := h.resolve_left hi
    have hsets {k : Line} := set_not_mem_expand (p := p) hr hi (k := k)
    refine ⟨hready.toPanelLive.applyAll (hsets (.inl rfl)) (hsets (.inr rfl)), ?_⟩
    rw [expand_eq_sends p hr hi, Lines.applyAll_append, applyAll_requestDelay]
    exact level_cs_applyAll_sends (.inr hready.cs)

/-- Requests the first of which is INIT leave the panel ready (R133). -/
theorem panelReady_applyAll_requests {p : Params} {rs : List Instr} {L : Lines}
    (hr : ∀ r ∈ rs, r.isRequest = true) (h : rs.head? = some .init ∨ L.PanelReady p) :
    (L.applyAll (rs.flatMap (expand p))).PanelReady p := by
  induction rs generalizing L with
  | nil => exact h.resolve_left (by simp)
  | cons r rs ih =>
    rw [List.forall_mem_cons] at hr
    rw [List.flatMap_cons, Lines.applyAll_append]
    exact ih hr.2 (.inr (panelReady_applyAll_expand hr.1 (h.imp_left (by simp))))

/-- Between requests, after the first, the panel is ready (R133, R234). -/
theorem State.Inv.panelReady {s : State} (h : s.Inv) (hd : s.initDone = true) (hb : s.busy = false) :
    s.lines.PanelReady Config.params := by
  obtain ⟨rs, hrs⟩ := h.history
  have hne : rs ≠ [] := by
    intro hnil
    cases (hrs.before_first hnil).2.symm.trans hd
  have htrace : s.trace = rs.flatMap (expand Config.params) := by
    rw [← hrs.events, (h.idle hb).1, List.append_nil]
  rw [h.lines_of_trace, htrace]
  exact panelReady_applyAll_requests (fun r hr => (hrs.requests r hr).1) (.inl (hrs.init_first hne))

/-- While a request other than INIT runs, the trace is that of the requests before it, the first of them INIT, and the
events of its own already emitted. -/
theorem State.Inv.trace_of_running {s : State} (h : s.Inv) (hd : s.initDone = true) (hb : s.busy = true) :
    ∃ (rs : List Instr) (i : Instr) (done : List Event), s.trace = rs.flatMap (expand Config.params) ++ done ∧
      (∀ r ∈ rs, r.isRequest = true) ∧ rs.head? = some .init ∧ i.isRequest = true ∧ i ≠ .init ∧
      done <+: expand Config.params i := by
  obtain ⟨-, i, hcur, ⟨done, hdone⟩, hinit⟩ := h.running hb
  obtain ⟨all, hall⟩ := h.history
  have hi : i ≠ .init := hinit.1 hd
  obtain ⟨rs, rfl⟩ : ∃ rs, all = rs ++ [i] := List.getLast?_eq_some_iff.1 ((hall.last_in_flight hb).trans hcur)
  have hreq : ∀ r ∈ rs ++ [i], r.isRequest = true := fun r hr => (hall.requests r hr).1
  refine ⟨rs, i, done, ?trace, fun r hr => hreq r (List.mem_append_left _ hr), ?head, hreq i (by simp), hi,
    ⟨s.pend, hdone⟩⟩
  case trace =>
    have hevents := hall.events
    rw [List.flatMap_append, List.flatMap_singleton, ← hdone, ← List.append_assoc] at hevents
    exact List.append_cancel_right hevents
  case head =>
    have hfirst := hall.init_first (by simp)
    cases rs with
    | nil => exact absurd (Option.some.inj hfirst) hi
    | cons r rs => exact hfirst

/-- Settles O49: between requests the panel is ready, and what a request other than INIT has emitted keeps it live. -/
theorem panelIsLiveOnceInitIsDone : Obligations.PanelIsLiveOnceInitIsDone := by
  intro s h hd
  have hlive : s.lines.PanelLive Config.params := by
    cases hb : s.busy with
    | false => exact (h.panelReady hd hb).toPanelLive
    | true =>
      obtain ⟨rs, i, done, htrace, hreq, hfirst, hr, hi, hdone⟩ := h.trace_of_running hd hb
      rw [h.lines_of_trace, htrace, Lines.applyAll_append]
      exact (panelReady_applyAll_requests hreq (.inl hfirst)).toPanelLive.applyAll
        (fun v hv => set_not_mem_expand hr hi (.inl rfl) v (hdone.subset hv))
        (fun v hv => set_not_mem_expand hr hi (.inr rfl) v (hdone.subset hv))
  exact ⟨hlive.isOut, hlive.en, hlive.rst, fun hb => (h.panelReady hd hb).cs⟩

end Sys2Proof.Machine

/-!
Proofs: the glyph ROM (O28) and the renderer's requests as transmissions: RENDER_CHAR (O26), RENDER_STRING (O27), and
the default box of the codes outside the supported set (O29).
-/

namespace Sys2Proof.Machine

/-! ## The glyph ROM -/

/-- The codes that have a glyph of the board: every one of the 94 but space (R161, R165). -/
theorem supported_and_ne_space_iff {ch : Byte} :
    supported ch = true ∧ ch ≠ 0x20 ↔
      0x21 ≤ ch.toNat ∧ ch.toNat ≤ 0x5F ∨ 0x61 ≤ ch.toNat ∧ ch.toNat ≤ 0x7E := by
  simp only [supported, Bool.or_eq_true, Bool.and_eq_true, decide_eq_true_eq]
  bv_omega

/-- The codes outside the supported set (R163). -/
theorem supported_eq_false_iff {ch : Byte} :
    supported ch = false ↔ ch.toNat ≤ 0x1F ∨ ch = 0x60 ∨ 0x7F ≤ ch.toNat := by
  rw [← Bool.not_eq_true]
  simp only [supported, Bool.or_eq_true, Bool.and_eq_true, decide_eq_true_eq]
  bv_omega

/-- R162. -/
theorem romRead_space (p : Params) : romRead p 0x20 = [] := rfl

/-- R165. -/
theorem romRead_of_supported (p : Params) {ch : Byte} (h : supported ch = true) (hne : ch ≠ 0x20) :
    romRead p ch = p.glyph ch := by
  rw [romRead, if_neg hne, if_pos h]

/-- R163. -/
theorem romRead_of_not_supported (p : Params) {ch : Byte} (h : supported ch = false) :
    romRead p ch = p.defaultBox := by
  have hne : ch ≠ 0x20 := by
    rintro rfl
    cases h
  rw [romRead, if_neg hne, h, if_neg Bool.false_ne_true]

/-- Settles O28, by the three kinds of code; the board's glyphs lie in the cell by the constraint of R165. -/
theorem romHoldsNothingForSpaceAndTheBoxForTheRest : Obligations.RomHoldsNothingForSpaceAndTheBoxForTheRest := by
  refine ⟨fun p => ⟨romRead_space p, fun ch h => ?glyph, fun ch h => ?box⟩, fun ch h q hq => ?cell⟩
  case glyph =>
    obtain ⟨hs, hne⟩ := supported_and_ne_space_iff.2 h
    exact romRead_of_supported p hs hne
  case box => exact romRead_of_not_supported p (supported_eq_false_iff.2 h)
  case cell =>
    obtain ⟨hs, hne⟩ := supported_and_ne_space_iff.2 h
    rw [romRead_of_supported _ hs hne] at hq
    exact Config.params_valid.glyph_in_cell ch hs hne q hq

/-! ## The renderer's requests as transmissions -/

theorem length_primWire (p : Params) (x y : Byte) (c : Color) (q : Prim) : (primWire p x y c q).length = 8 := by
  cases q <;> rfl

/-- 8 wire bytes a primitive (R166). -/
theorem length_charWire (p : Params) (x y ch : Byte) (c : Color) :
    (charWire p x y ch c).length = 8 * (romRead p ch).length := by
  simp [charWire, List.length_flatMap, length_primWire, Nat.mul_comm]

/-- RENDER_CHAR is accepted with the transmissions of its primitives in list order (R166). -/
theorem exec_renderChar_sends (x y ch : Byte) (c : Color) (s : State) :
    exec (.renderChar x y ch c) s = .next { s with
      rx := []
      cur := some (.renderChar x y ch c)
      busy := true
      pend := sends Config.params (charWire Config.params x y ch c) } :=
  exec_request_sends_of_no_delay rfl (by simp) rfl s

/-- RENDER_STRING is accepted with the transmissions of its characters, each next one 6 to the right (R167). -/
theorem exec_renderString_sends (x y : Byte) (c : Color) (text : List Byte) (s : State) :
    exec (.renderString x y c text) s = .next { s with
      rx := []
      cur := some (.renderString x y c text)
      busy := true
      pend := sends Config.params (stringWire Config.params x y c text) } :=
  exec_request_sends_of_no_delay rfl (by simp) rfl s

/-- Settles O26: RENDER_CHAR is the LINE commands of its wire view, 8 bytes of 11 events for each primitive. -/
theorem renderCharSendsOneLineForEachPrimitive : Obligations.RenderCharSendsOneLineForEachPrimitive := by
  intro x y ch c s L
  refine ⟨_, exec_renderChar_sends x y ch c s, rfl, rfl, wireViewOfTransmissionsIsTheirBytes _ L _, ?length,
    delaySum_sends _ _⟩
  case length => rw [sends_length, length_charWire, ← Nat.mul_assoc]

/-- Settles O27: the wire view of a text is that of its first character and then that of the rest 6 to the right. -/
theorem renderStringRendersItsCharactersSixApart : Obligations.RenderStringRendersItsCharactersSixApart := by
  intro x y c s
  refine ⟨⟨_, exec_renderString_sends x y c [] s, rfl⟩, fun ch text => ?_⟩
  refine ⟨_, _, _, exec_renderString_sends x y c (ch :: text) s, exec_renderChar_sends x y ch c s,
    exec_renderString_sends (x + 6) y c text s, ?_⟩
  rw [stringWire, sends_append]

/-! ## The default box -/

/-- The offsets of the two ends of the line a primitive is drawn as; a dot's are equal (R166). -/
def primEnds : Prim → Int × Int × Int × Int
  | .line a b e f => (a, b, e, f)
  | .dot a b => (a, b, a, b)

/-- The LINE command of a primitive with the offsets `q` at an origin: each coordinate is a sum of bytes (R166, D18). -/
def endsWire (p : Params) (x y : Byte) (c : Color) (q : Int × Int × Int × Int) : List WireByte :=
  lineWire p (x + BitVec.ofInt 8 q.1) (y + BitVec.ofInt 8 q.2.1) (x + BitVec.ofInt 8 q.2.2.1)
    (y + BitVec.ofInt 8 q.2.2.2) c

/-- A sum taken modulo 256 is the sum of the bytes (D18). -/
theorem ofInt_toNat_add (x : Byte) (d : Int) : BitVec.ofInt 8 (x.toNat + d) = x + BitVec.ofInt 8 d := by
  rw [BitVec.ofInt_add, BitVec.ofInt_natCast, BitVec.ofNat_toNat, BitVec.setWidth_eq]

theorem primWire_eq_endsWire (p : Params) (x y : Byte) (c : Color) (q : Prim) :
    primWire p x y c q = endsWire p x y c (primEnds q) := by
  cases q <;> simp only [primWire, endsWire, primEnds, ofInt_toNat_add]

/-- The transmissions of a character are those of the lines of its primitives, one after another (R166). -/
theorem sends_charWire (p : Params) (x y ch : Byte) (c : Color) :
    sends p (charWire p x y ch c) =
      ((romRead p ch).map primEnds).flatMap fun q => sends p (endsWire p x y c q) := by
  simp only [charWire, sends, List.flatMap_assoc, List.flatMap_map, primWire_eq_endsWire]

/-- The default box draws each of the four strokes, from one end or the other (R164). -/
theorem stroke_mem_ends_defaultBox {p : Params} (hp : p.Valid) {a b e f : Int}
    (h : Prim.line a b e f ∈ p.boxStrokes) :
    (a, b, e, f) ∈ p.defaultBox.map primEnds ∨ (e, f, a, b) ∈ p.defaultBox.map primEnds :=
  (hp.box_strokes _ h).imp List.mem_map_of_mem List.mem_map_of_mem

/-- Settles O29: the lines are those of the default box, which has four primitives and each of the four strokes. -/
theorem unsupportedCodeRendersTheFourStrokeBox : Obligations.UnsupportedCodeRendersTheFourStrokeBox := by
  intro x y ch c s hch
  have hrom := romRead_of_not_supported Config.params (supported_eq_false_iff.2 hch)
  refine ⟨_, Config.params.defaultBox.map primEnds, exec_renderChar_sends x y ch c s, ?length, ?lines,
    fun r hr => ?strokes⟩
  case length => rw [List.length_map, Config.params_valid.box_length]
  case lines =>
    rw [← hrom]
    exact sends_charWire Config.params x y ch c
  case strokes =>
    refine stroke_mem_ends_defaultBox Config.params_valid ?_
    simp only [List.mem_cons, List.not_mem_nil, or_false] at hr
    rcases hr with rfl | rfl | rfl | rfl <;> simp [Params.boxStrokes]

end Sys2Proof.Machine

/-!
Proofs: the faults. BUSYWR leaves the request in flight alone (O34), a fault is raised by a REQ write only (O37), and
once raised it stays until engine reset (O36).
-/

namespace Sys2Proof.Machine

/-! ## Raising a fault -/

/-- Settles O34: the write raises BUSYWR, and the request in flight is then left alone. -/
theorem busywrDoesNotAbortTheRequest : Obligations.BusywrDoesNotAbortTheRequest := by
  intro s v hs hb hf
  rw [run_succ _ (step_busywr hs hf hb)]
  exact requestInFlightRunsToCompletion (({ s with sched := [] } : State).raise .busywr) rfl hb

/-- The sequencer neither raises nor clears a fault, stores no byte and schedules nothing (R27, R200). -/
theorem State.seqStep_frame (s : State) :
    s.seqStep.fault = s.fault ∧ s.seqStep.fcause = s.fcause ∧ s.seqStep.rx = s.rx ∧ s.seqStep.sched = s.sched := by
  rcases seqStep_cases s with ⟨ev, rest, -, e⟩ | ⟨-, -, e⟩ | ⟨-, -, e⟩
  all_goals
    rw [e]
    exact ⟨rfl, rfl, rfl, rfl⟩

/-- A REQ write that raises a fault does so for one of the three causes (R200, R203). -/
theorem WriteReq.raised {s t : State} {v : Byte} (w : WriteReq s v t) (hf : s.fault = false) (ht : t.fault = true) :
    ∃ c, t = s.raise c ∧
      ((c = .busywr ∧ s.busy = true) ∨
       (c = .badreq ∧ s.busy = false ∧ s.rx = [] ∧ isRequestCode v = false) ∨
       (c = .uninit ∧ s.busy = false ∧ s.rx = [] ∧ isRequestCode v = true ∧ v ≠ 0x01 ∧ s.initDone = false)) := by
  cases w with
  | ignored | accepted | stored => cases hf.symm.trans ht
  | busywr _ hb => exact ⟨_, rfl, .inl ⟨rfl, hb⟩⟩
  | uninit _ hb hx hc h1 hi => exact ⟨_, rfl, .inr (.inr ⟨rfl, hb, hx, hc, h1, hi⟩)⟩
  | badreq i _ hb hd hr =>
    obtain ⟨u, hu, hnot⟩ := decode_reserved hd hr
    obtain ⟨hx, rfl⟩ : s.rx = [] ∧ v = u := by simpa [List.append_eq_singleton_iff] using hu
    exact ⟨_, rfl, .inr (.inl ⟨rfl, hb, hx, hnot⟩)⟩

/-- Settles O37, by the case of the step: only a REQ write raises a fault, and each cause has its own conditions. -/
theorem faultsComeFromReqWritesOnly : Obligations.FaultsComeFromReqWritesOnly := by
  intro s t h hf ht
  cases step_cases h with
  | seq =>
    obtain ⟨hfault, -⟩ := State.seqStep_frame { s with sched := s.sched.tail }
    cases hf.symm.trans (hfault.symm.trans ht)
  | writeStatus | read => cases hf.symm.trans ht
  | reset => cases ht
  | writeReq v _ hs w =>
    obtain ⟨c, rfl, hcause⟩ := w.raised hf ht
    refine ⟨v, s.sched.tail, List.eq_cons_of_mem_head? hs, rfl, ?_⟩
    rcases hcause with ⟨rfl, hb⟩ | ⟨rfl, hb, hx, hv⟩ | ⟨rfl, hb, hx, hv, h1, hi⟩
    · exact .inl ⟨hb, rfl⟩
    · refine .inr (.inl ⟨hb, hx, ?_, rfl⟩)
      rwa [← isRequestCode_iff, Bool.not_eq_true]
    · obtain ⟨hlo, hhi⟩ := isRequestCode_iff.1 hv
      exact .inr (.inr ⟨hb, hx, by bv_omega, hhi, hi, rfl⟩)

/-! ## A faulted engine -/

/-- A step takes one action off the schedule and puts none on it (R63). -/
theorem step_sched {s t : State} (h : step s = .next t) : t.sched = s.sched.tail := by
  cases step_cases h with
  | seq =>
    obtain ⟨-, -, -, hsched⟩ := State.seqStep_frame { s with sched := s.sched.tail }
    exact hsched
  | writeStatus | read | reset => rfl
  | writeReq _ _ _ w => cases w with
    | ignored | busywr | uninit | badreq | accepted | stored => rfl

/-- What has come of a faulted engine `s` at a later state `t`: the fault, its code and `rx` are as they were, no other
request is in flight, and nothing but what was pending is emitted (R201, R204). -/
structure State.LockedSince (s t : State) : Prop where
  fault : t.fault = true
  fcause : t.fcause = s.fcause
  rx : t.rx = s.rx
  cur : t.cur = s.cur ∨ t.cur = none
  busy : s.busy = false → t.busy = false
  events : t.trace ++ t.pend = s.trace ++ s.pend

theorem State.LockedSince.refl {s : State} (hf : s.fault = true) : s.LockedSince s :=
  ⟨hf, rfl, rfl, .inl rfl, id, rfl⟩

theorem State.LockedSince.trans {s t u : State} (hst : s.LockedSince t) (htu : t.LockedSince u) :
    s.LockedSince u where
  fault := htu.fault
  fcause := htu.fcause.trans hst.fcause
  rx := htu.rx.trans hst.rx
  cur := htu.cur.elim (fun e => e ▸ hst.cur) .inr
  busy := htu.busy ∘ hst.busy
  events := htu.events.trans hst.events

/-- Only engine reset clears a fault, changes its code or, while it lasts, changes `rx` (R26, R203, R204). -/
theorem step_keeps_fault {s t : State} (h : step s = .next t) (hreset : s.sched.head? ≠ some .reset)
    (hf : s.fault = true) : t.fault = true ∧ t.fcause = s.fcause ∧ t.rx = s.rx := by
  cases step_cases h with
  | seq =>
    obtain ⟨hfault, hcode, hrx, -⟩ := State.seqStep_frame { s with sched := s.sched.tail }
    exact ⟨hfault.trans hf, hcode, hrx⟩
  | writeStatus | read => exact ⟨hf, rfl, rfl⟩
  | reset hr => exact absurd hr hreset
  | writeReq _ _ _ w => cases w with
    | ignored => exact ⟨hf, rfl, rfl⟩
    | busywr hf' | uninit hf' | badreq _ hf' | accepted _ hf' | stored _ hf' => cases hf.symm.trans hf'

/-- A step of a faulted engine accepts nothing: the request in flight goes on or completes (R202, R203). -/
theorem step_lockedSince {s t : State} (h : step s = .next t) (hreset : s.sched.head? ≠ some .reset)
    (hf : s.fault = true) : s.LockedSince t := by
  obtain ⟨hfault, hcode, hrx⟩ := step_keeps_fault h hreset hf
  cases step_effect h hreset with
  | none _ ht hb _ hc hp => exact ⟨hfault, hcode, hrx, .inl hc, hb.trans, by rw [ht, hp]⟩
  | emitted ev _ ht hb _ hc hp =>
    exact ⟨hfault, hcode, hrx, .inl hc, hb.trans, by rw [ht, hp, List.append_assoc, List.singleton_append]⟩
  | completed _ _ _ ht =>
    subst ht
    exact ⟨hfault, hcode, hrx, .inr rfl, fun _ => rfl, rfl⟩
  | accepted _ _ hf' => cases hf.symm.trans hf'

/-- Settles O36: every step of a run without engine reset leaves the engine locked. -/
theorem faultLocksTheEngineUntilReset : Obligations.FaultLocksTheEngineUntilReset := by
  intro s n hf hreset
  obtain ⟨t, ht⟩ := run_next n s
  have hstep (u w : State) (hu : .reset ∉ u.sched ∧ s.LockedSince u) (h : step u = .next w) :
      .reset ∉ w.sched ∧ s.LockedSince w := by
    obtain ⟨hnot, hlocked⟩ := hu
    rw [step_sched h]
    exact ⟨fun hm => hnot (List.mem_of_mem_tail hm),
      hlocked.trans (step_lockedSince h (fun hh => hnot (List.mem_of_mem_head? hh)) hlocked.fault)⟩
  obtain ⟨-, hfault, hcode, hrx, hcur, hbusy, hevents⟩ := run_keeps hstep ⟨hreset, .refl hf⟩ ht
  exact ⟨t, ht, hfault, hcode, hrx, hcur, hbusy, hevents⟩

end Sys2Proof.Machine

/-!
Proofs: engine reset (O2, O3), the delays of each request (O31), and the end of a run (O51).
-/

namespace Sys2Proof.Machine

/-! ## An engine on which no INIT has been written -/

/-- The engine as engine reset leaves it, but for the lines, the fault and the host's own fields: nothing is in flight,
pending, part-written or emitted, and INIT is not done (R34, R231). -/
structure State.Unstarted (s : State) : Prop where
  busy : s.busy = false
  initDone : s.initDone = false
  cur : s.cur = none
  pend : s.pend = []
  rx : s.rx = []
  trace : s.trace = []

/-- Engine reset leaves the engine so, from any state (R230). -/
theorem State.engineReset_unstarted (s : State) : s.engineReset.Unstarted := ⟨rfl, rfl, rfl, rfl, rfl, rfl⟩

/-- `Unstarted` says nothing of the two fields of the host. -/
theorem State.Unstarted.host {s : State} (h : s.Unstarted) (acts : List Act) (seen : List Byte) :
    ({ s with sched := acts, hostSeen := seen } : State).Unstarted :=
  ⟨h.busy, h.initDone, h.cur, h.pend, h.rx, h.trace⟩

/-- Raising a fault starts nothing (R201). -/
theorem State.Unstarted.raise {s : State} (h : s.Unstarted) (c : Cause) : (s.raise c).Unstarted :=
  ⟨h.busy, h.initDone, h.cur, h.pend, rfl, h.trace⟩

/-- The sequencer has nothing to do (R27, log entry 4). -/
theorem State.Unstarted.seqStep {s : State} (h : s.Unstarted) : s.seqStep.Unstarted := by
  rwa [State.seqStep_idle h.pend h.busy]

/-- A REQ write other than INIT's code starts nothing: every other request code meets UNINIT at its first byte, so
no byte is stored and no request accepted (R200). -/
theorem WriteReq.unstarted {s t : State} {v : Byte} (w : WriteReq s v t) (h : s.Unstarted) (hv : v ≠ 0x01) :
    t.Unstarted := by
  cases w with
  | ignored => exact h
  | busywr | uninit | badreq => exact h.raise _
  | accepted i _ _ hd hr hg =>
    rw [h.rx, List.nil_append] at hd
    cases h.initDone.symm.trans (hg h.rx (isRequestCode_of_decodeOperands (decode_ok.1 hd) hr) hv)
  | stored e _ _ hd hg =>
    rw [h.rx, List.nil_append] at hd
    cases h.initDone.symm.trans (hg h.rx (isRequestCode_of_decode_error hd).1 hv)

/-- A step that is no write of INIT's code to REQ starts nothing (R231). -/
theorem step_unstarted {s t : State} (hstep : step s = .next t) (h : s.Unstarted)
    (hinit : s.sched.head? ≠ some (.write .req 0x01)) : t.Unstarted := by
  cases step_cases hstep with
  | seq => exact (h.host _ _).seqStep
  | writeStatus | read => exact h.host _ _
  | writeReq v _ hs w => exact w.unstarted (h.host _ _) fun hv => hinit (hv ▸ hs)
  | reset => exact State.engineReset_unstarted _

/-- A run takes one action off the schedule a step (R63). -/
theorem run_sched {n : Nat} {s t : State} (h : run n s = .next t) : t.sched = s.sched.drop n := by
  induction n generalizing s with
  | zero => cases h; rfl
  | succ n ih =>
    obtain ⟨u, -, hu⟩ := step_spec s
    rw [ih (run_succ n hu ▸ h), step_sched hu, List.drop_tail]

/-- A run starts nothing as long as no action it takes is a write of INIT's code to REQ (R231). -/
theorem run_unstarted {n : Nat} {s t : State} (hrun : run n s = .next t) (h : s.Unstarted)
    (hinit : .write .req 0x01 ∉ s.sched.take n) : t.Unstarted := by
  induction n generalizing s with
  | zero => cases hrun; exact h
  | succ n ih =>
    obtain ⟨u, -, hu⟩ := step_spec s
    refine ih (run_succ n hu ▸ hrun) (step_unstarted hu h fun hhead => hinit ?_) fun hmem => hinit ?_
    · rw [List.eq_cons_of_mem_head? hhead]
      exact List.mem_cons_self
    · refine List.mem_of_mem_tail ?_
      rw [List.tail_take_eq_take_tail]
      exact step_sched hu ▸ hmem

/-- Settles O2: engine reset is the whole of the step. -/
theorem engineResetWorksFromAnyState : Obligations.EngineResetWorksFromAnyState := fun _ _ h =>
  ⟨_, step_reset h, rfl⟩

/-- Settles O3: the run takes actions of `acts` only, none of which starts the engine. -/
theorem resetEngineStaysIdleUntilInitIsWritten : Obligations.ResetEngineStaysIdleUntilInitIsWritten := by
  intro acts rest n hinit hn
  have htaken : (acts ++ rest).take n = acts.take n := by
    rcases hn with hn | rfl
    · exact List.take_append_of_le_length hn
    · rw [List.append_nil]
  obtain ⟨t, ht⟩ := run_next n { State.reset with sched := acts ++ rest }
  obtain ⟨hbusy, hdone, hcur, hpend, hrx, htrace⟩ := run_unstarted ht
    (State.engineReset_unstarted { State.reset with sched := acts ++ rest })
    fun hmem => hinit (List.mem_of_mem_take (htaken ▸ hmem))
  exact ⟨t, ht, hbusy, hdone, hcur, hpend, hrx, htrace, run_sched ht⟩

/-! ## The delays of each request -/

/-- The delays of a request other than INIT are those it ends with: transmissions have none (R241). -/
theorem delaySum_expand (p : Params) {i : Instr} (hr : i.isRequest = true) (hi : i ≠ .init) :
    delaySum (expand p i) = delaySum (requestDelay p i) := by
  rw [expand_eq_sends p hr hi, delaySum_append, delaySum_sends, Nat.zero_add]

/-- The least delays of INIT, from the bounds of R8: `2 × 10 + 200 + 2` (R241). -/
theorem le_delaySum_initEvents {p : Params} (h : p.Valid) : 222 ≤ delaySum (initEvents p) := by
  have htRst := h.tRst_ge
  have htOn := h.tOn_ge
  have htRect := h.tRect_ge
  rw [delaySum_initEvents]
  omega

/-- Settles O31: the delays of INIT are counted in its sequence, those of any other request are its last events. -/
theorem delaysOfEachRequest : Obligations.DelaysOfEachRequest := by
  have hvalid := Config.params_valid
  refine ⟨delaySum_initEvents _, le_delaySum_initEvents hvalid, hvalid.tRect_ge, ?rect, ?fill, ?clear, ?other⟩
  case rect => exact fun _ _ _ _ _ _ _ => delaySum_expand _ rfl (by simp)
  case fill => exact fun _ => delaySum_expand _ rfl (by simp)
  case clear => exact delaySum_expand _ rfl (by simp)
  case other =>
    intro i hr hi hdelay
    rw [delaySum_expand _ hr hi, hdelay, delaySum_nil]

/-! ## The end of a run -/

theorem State.over_iff {s : State} : s.over = true ↔ s.busy = false ∧ s.pend = [] ∧ s.rx = [] := by
  simp [State.over, and_assoc]

/-- Under the invariant an idle engine has nothing pending, so a run is over once no frame is part-written (R27). -/
theorem State.Inv.over_iff {s : State} (h : s.Inv) : s.over = true ↔ s.busy = false ∧ s.rx = [] := by
  rw [State.over_iff]
  refine and_congr_right fun hb => ?_
  obtain ⟨hp, -⟩ := h.idle hb
  exact and_iff_right hp

/-- Settles O51: with nothing scheduled the sequencer's step is what comes, and the engine is idle (log entry 4). -/
theorem aFinishedRunHasNoStep : Obligations.AFinishedRunHasNoStep := by
  refine fun s => ⟨fun hover hs => ?_, State.Inv.over_iff⟩
  obtain ⟨hb, hp, -⟩ := State.over_iff.1 hover
  obtain ⟨-, hidle⟩ := everyStepHasANextState s
  exact hidle hs hp hb

end Sys2Proof.Machine
